-- ==== Sys2Proof/Word.lean ====
section
/-! DEFINITION. The word types of the WX-60: bytes of the service link, addresses, beats of 8 bytes,
and the index types of its tags, watch entries, memory slots and arbiter contenders. -/

namespace Sys2Proof

/-- One byte of the service link or one set of 8 byte enables (bit `k` belongs to byte `k`). -/
abbrev Byte := BitVec 8

/-- A 32-bit byte address (00_scope.md, section 5). -/
abbrev Addr := BitVec 32

/-- The 8 bytes of one beat. Byte `k` of the beat stands in bits `8k` to `8k+7`
(DESIGN CHOICE, log entry 7: the manual numbers the bytes of a beat and never the bits of a whole beat). -/
abbrev Beat := BitVec 64

/-- A tag: the number of the lane a transaction arrives on, 0 to 7. -/
abbrev Tag := Fin 8

/-- The index of a watch entry, 0 to 15. -/
abbrev WatchIndex := Fin 16

/-- The number of a memory slot, 0 to 15. -/
abbrev SlotIndex := Fin 16

/-- A place in the arbiter's ring (R83): tags 0 to 7, then 8 for the probe. -/
abbrev Contender := Fin 9

/-- The eight tags in ascending order. -/
def allTags : List Tag := [0, 1, 2, 3, 4, 5, 6, 7]

/-- The sixteen watch entry indices in ascending order. -/
def allWatches : List WatchIndex := [0, 1, 2, 3, 4, 5, 6, 7, 8, 9, 10, 11, 12, 13, 14, 15]

/-- The sixteen memory slot numbers in ascending order. -/
def allSlots : List SlotIndex := [0, 1, 2, 3, 4, 5, 6, 7, 8, 9, 10, 11, 12, 13, 14, 15]

end Sys2Proof
end

