-- ==== Sys2Proof/Config.lean ====
section
/-! DEFINITION. What is fixed in the part: its capacities (00_scope.md, section 6), the values that
IDENT returns (10_frame_and_record_layouts.md, 10.7) and the power-on response limit (R98).
The manual leaves no result of any command open, so no free value stands here. -/

namespace Sys2Proof.Config

/-- Records a tag can hold in the transit table (R2). -/
@[simp, reducible] def recordsPerTag : Nat := 4

/-- Events the store holds (R109). -/
@[simp, reducible] def storeCapacity : Nat := 32

/-- Wait records of the wait table (R125). -/
@[simp, reducible] def waitCapacity : Nat := 16

/-- Beats of the largest transaction (R5). -/
@[simp, reducible] def maxBeats : Nat := 16

/-- Largest payload of a frame (R161, R164). -/
@[simp, reducible] def maxPayload : Nat := 160

/-- Bytes the request buffer keeps (R159). -/
@[simp, reducible] def requestBufferSize : Nat := 163

/-- The response limit in microseconds after power-on and CLEAR (R98, R100). -/
@[simp, reducible] def powerOnResponseLimit : BitVec 16 := 10000

/-- Microseconds in one unit of a hold limit (00_scope.md, section 5). -/
@[simp, reducible] def holdUnit : Nat := 100

/-- The 12 payload bytes of every IDENT response (R170; layout in 10.7): vendor code 0A71h, part code
0060h, revision 01h, tags, records per tag, watch entries, waits, store, memory slots, largest beat count. -/
def identPayload : List Byte :=
  [0x0A, 0x71, 0x00, 0x60, 0x01, 8, 4, 16, 16, 32, 16, 16]

end Sys2Proof.Config
end

