-- ==== Sys2Proof/Syntax.lean ====
section
/-! DEFINITION. The commands of the WX-60: one constructor of `Instr` for each row of
spec/opcode_table.json, with the operands the manual gives it. A request of the service link carries
the raw fields of its payload, so that a value outside its range can be sent and is judged by the
owning block (R183). -/

namespace Sys2Proof

/-- The privilege an initiator drives with a request (01, 1.1). -/
inductive Privilege where
  | user
  | supervisor
deriving DecidableEq, Repr

/-- The access of a transaction or a probe. -/
inductive Access where
  | read
  | write
deriving DecidableEq, Repr

/-- One beat of write data with its set of byte enables. -/
structure WriteBeat where
  data : Beat
  enables : Byte
deriving DecidableEq, Repr

/-- What a lane offers beside tag, privilege and address: a READ with its 5-bit beat count, or a WRITE
with one data value and one set of enables for each beat of its beat count (R1). -/
inductive RequestBody where
  | read (beats : BitVec 5)
  | write (beats : List WriteBeat)
deriving DecidableEq, Repr

/-- The code of a memory controller's answer (R86). -/
inductive MemoryCode where
  | ok
  | error
deriving DecidableEq, Repr

/-- A data qualifier: an 8-byte value and an 8-byte mask (02, 2.1). -/
structure Qualifier where
  value : Beat
  mask : Beat
deriving DecidableEq, Repr

/-- The definition fields of a WATCH-WRITE payload as they are carried (10.4). `markHigh` is bits 3 to 7
of the presence mark; its bits 0 to 2 say which of the three optional groups are present. -/
structure RawDefinition where
  base : Addr
  limit : Addr
  access : Byte
  tags : Byte
  privilege : Byte
  action : Byte
  report : Byte
  start : Byte
  once : Byte
  markHigh : BitVec 5
  qualifier : Option Qualifier
  skip : Option (BitVec 16)
  arms : Option Byte
deriving DecidableEq, Repr

/-- The commands, in the order of spec/opcode_table.json. -/
inductive Instr where
  /-- ACCEPTANCE (R6): lane `tag` offers a request and the part takes it if it can. -/
  | acceptance (tag : Tag) (privilege : Privilege) (address : Addr) (body : RequestBody)
  /-- DELIVERY (R19): the initiator takes the offered response. -/
  | delivery
  /-- GRANT (R83): the arbiter makes one grant. -/
  | grant
  /-- ANSWER (R87): the memory controller presents an answer for a slot. -/
  | answer (slot : SlotIndex) (code : MemoryCode) (data : List Beat)
  /-- RESPONSE_TIMER_EXPIRY (R92): the response timer of a slot runs out. -/
  | responseTimerExpiry (slot : SlotIndex)
  /-- HOLD_TIMER_EXPIRY (R72): the hold timer of a tag runs out. -/
  | holdTimerExpiry (tag : Tag)
  /-- SYSRST_N_ASSERTION (R23, R175): a filtered assertion, with the level of HOLDBOOT sampled at it. -/
  | sysrstAssertion (holdboot : Bool)
  /-- SYSRST_N_RELEASE (R175): a filtered release. -/
  | sysrstRelease
  /-- POWER_ON (R177): power-on completes, with the level of HOLDBOOT and whether SYSRST_N is low. -/
  | powerOn (holdboot : Bool) (sysrstLow : Bool)
  /-- READ_PERIOD (R166): a chip-select period of `bytes` complete bytes, the first of them 0FFh;
  `readyAfter = some k` says that the held response becomes READY in the period, once `k` bytes
  after the first have been sent. -/
  | readPeriod (bytes : Nat) (readyAfter : Option Nat)
  /-- RESPONSE_READY (R165): the building of the held response completes. -/
  | responseReady
  /-- BAD_FRAME (R161): a period with the complete bytes `bytes`, whose frame fails a check of R161. -/
  | badFrame (bytes : List Byte)
  /-- BAD_REQUEST (R162): a period with the complete bytes `bytes`, a correct frame refused by R162. -/
  | badRequest (bytes : List Byte)
  /-- IDENT (R170). -/
  | ident
  /-- CLEAR (R171). -/
  | clear
  /-- SET-RESPONSE-LIMIT(limit) (R97). -/
  | setResponseLimit (limit : BitVec 16)
  /-- WATCH-WRITE(index, definition) (R27, R28). -/
  | watchWrite (index : Byte) (definition : RawDefinition)
  /-- WATCH-READ(index) (R47). -/
  | watchRead (index : Byte)
  /-- WATCH-STATE(index, DISABLE) (R30). -/
  | disable (index : Byte)
  /-- WATCH-STATE(index, ENABLE-LIVE) (R30). -/
  | enableLive (index : Byte)
  /-- WATCH-STATE(index, ENABLE-DORMANT) (R30). -/
  | enableDormant (index : Byte)
  /-- WATCH-STATE(index, REARM) (R31). -/
  | rearm (index : Byte)
  /-- TAG-READ(tag) (R76). -/
  | tagRead (tag : Byte)
  /-- TAG-FREEZE(tag) (R60). -/
  | tagFreeze (tag : Byte)
  /-- TAG-RESUME(tag) (R61). -/
  | tagResume (tag : Byte)
  /-- TAG-STEP(tag, n) (R62). -/
  | tagStep (tag : Byte) (n : BitVec 16)
  /-- TAG-WITHDRAW(tag, after) (R64). -/
  | tagWithdraw (tag : Byte) (after : Byte)
  /-- TAG-LIMIT(tag, limit, policy) (R71). -/
  | tagLimit (tag : Byte) (limit : BitVec 16) (policy : Byte)
  /-- HELD-LIST(tag) (R66). -/
  | heldList (tag : Byte)
  /-- HELD-PATCH(tag, beat, data, byte enables) (R67). -/
  | heldPatch (tag : Byte) (beat : Byte) (data : Beat) (enables : Byte)
  /-- HELD-ANSWER(tag, data) (R68). -/
  | heldAnswer (tag : Byte) (values : List Beat)
  /-- EVENT-TAKE (R110). -/
  | eventTake
  /-- EVENT-STATUS (R111). -/
  | eventStatus
  /-- EVENT-DISCARD (R112). -/
  | eventDiscard
  /-- WAIT-POST(handle, kinds, tags, watches) (R129). -/
  | waitPost (handle : Byte) (kinds : Byte) (tags : Byte) (watches : BitVec 16)
  /-- WAIT-CANCEL(handle) (R138). -/
  | waitCancel (handle : Byte)
  /-- WAIT-TAKE (R136). -/
  | waitTake
  /-- ATTN-SET(conditions) (R141). -/
  | attnSet (conditions : Byte)
  /-- PROBE-READ(address, beats) (R146, R147). -/
  | probeRead (address : Addr) (beats : Byte)
  /-- PROBE-WRITE(address, beats, data, byte enables) (R146, R147). -/
  | probeWrite (address : Addr) (beats : List WriteBeat)
  /-- PROBE-RESULT (R152). -/
  | probeResult
  /-- PROBE-CANCEL (R153). -/
  | probeCancel
  /-- POWER_ON_BEGIN (R177): a supply falls below, or first rises above, its power-on threshold. -/
  | powerOnBegin
  /-- WATCH-STATE(index, parameter) with a parameter byte that names none of the four (R30). -/
  | watchState (index : Byte) (parameter : Byte)
deriving DecidableEq, Repr

end Sys2Proof
end

