-- ==== Sys2Proof/Machine/Framing.lean ====
section
/-! DEFINITION. The framing of the service link: byte order of payload fields (R180), CRC-8 (R160),
the frame checks (R161) and the lengths a request code permits (R162, R181). -/

namespace Sys2Proof.Machine

/-- A number of 2 bytes, most significant byte first (R180). -/
def u16Bytes (v : BitVec 16) : List Byte := [v.extractLsb' 8 8, v.extractLsb' 0 8]

/-- A number of 4 bytes, most significant byte first (R180). -/
def u32Bytes (v : BitVec 32) : List Byte :=
  [v.extractLsb' 24 8, v.extractLsb' 16 8, v.extractLsb' 8 8, v.extractLsb' 0 8]

/-- Beat data: 8 bytes, byte 0 of the beat first (R180). -/
def beatBytes (v : Beat) : List Byte :=
  [v.extractLsb' 0 8, v.extractLsb' 8 8, v.extractLsb' 16 8, v.extractLsb' 24 8,
   v.extractLsb' 32 8, v.extractLsb' 40 8, v.extractLsb' 48 8, v.extractLsb' 56 8]

/-- The number two bytes spell, most significant byte first. -/
def u16Of (hi lo : Byte) : BitVec 16 := hi ++ lo

/-- The number four bytes spell, most significant byte first. -/
def u32Of (b3 b2 b1 b0 : Byte) : BitVec 32 := b3 ++ b2 ++ b1 ++ b0

/-- The beat that eight bytes spell, byte 0 of the beat first. -/
def beatOf (d0 d1 d2 d3 d4 d5 d6 d7 : Byte) : Beat :=
  d7 ++ d6 ++ d5 ++ d4 ++ d3 ++ d2 ++ d1 ++ d0

/-- A number below 256 as one byte. -/
def byteOf (n : Nat) : Byte := BitVec.ofNat 8 n

/-- Yes or no as one byte (R180). -/
def boolByte (b : Bool) : Byte := if b then 0x01 else 0x00

/-- One step of the CRC register for one message bit (R160). -/
def crcBit (reg : Byte) (bit : Bool) : Byte :=
  if reg.msb != bit then (reg <<< 1) ^^^ 0x07 else reg <<< 1

/-- The CRC register after one byte, taken most significant bit first (R160). -/
def crcByte (reg b : Byte) : Byte :=
  [7, 6, 5, 4, 3, 2, 1, 0].foldl (fun r k => crcBit r (b.getLsbD k)) reg

/-- The CRC-8 of a sequence of bytes; the register starts at 0FFh (R160). -/
def crc8 (bytes : List Byte) : Byte := bytes.foldl crcByte 0xFF

/-- A frame: head byte (request code or status), length, payload and CRC (08, 8.2; R164). -/
def frame (head : Byte) (payload : List Byte) : List Byte :=
  let body := head :: byteOf payload.length :: payload
  body ++ [crc8 body]

/-- The checks of R161 on the complete bytes of a request period: the code and the payload of a correct
frame, or `none` where the period has fewer than 3 complete bytes, a length byte above 160, a count that
differs from the length plus 3, or a wrong CRC. -/
def openFrame (bytes : List Byte) : Option (Byte × List Byte) :=
  match bytes with
  | code :: len :: rest =>
    if bytes.length < 3 then none
    else if len.toNat > Config.maxPayload || bytes.length != len.toNat + 3 then none
    else if crc8 (bytes.take (len.toNat + 2)) != bytes.getLastD 0 then none
    else some (code, rest.take len.toNat)
  | _ => none

/-- The lengths a request code permits, as the layout tables give them (R162, R181): the fixed column of
10.2, or, for WATCH-WRITE, HELD-ANSWER and PROBE-WRITE, the length that the counts and marks in the
payload call for. `false` for a code that names no request. -/
def lengthPermitted (code : Byte) (payload : List Byte) : Bool :=
  let n := payload.length
  match code.toNat with
  | 0x01 => n == 0
  | 0x02 => n == 0
  | 0x03 => n == 2
  | 0x10 =>
    match payload[16]? with
    | none => false
    | some mark =>
      n == 17 + (if mark.getLsbD 0 then 16 else 0) + (if mark.getLsbD 1 then 2 else 0)
        + (if mark.getLsbD 2 then 1 else 0)
  | 0x11 => n == 1
  | 0x12 => n == 2
  | 0x20 => n == 1
  | 0x21 => n == 1
  | 0x22 => n == 1
  | 0x23 => n == 3
  | 0x24 => n == 2
  | 0x25 => n == 4
  | 0x26 => n == 1
  | 0x27 => n == 11
  | 0x28 =>
    match payload[1]? with
    | none => false
    | some count => count.toNat ≤ 16 && n == 2 + 8 * count.toNat
  | 0x30 => n == 0
  | 0x31 => n == 0
  | 0x32 => n == 0
  | 0x33 => n == 5
  | 0x34 => n == 1
  | 0x35 => n == 0
  | 0x36 => n == 1
  | 0x40 => n == 5
  | 0x41 =>
    match payload[4]? with
    | none => false
    | some beats => n == 5 + 9 * beats.toNat
  | 0x42 => n == 0
  | 0x43 => n == 0
  | _ => false

end Sys2Proof.Machine
end

