-- ==== Sys2Proof/WellFormed.lean ====
section
/-! DEFINITION. Which commands can occur at the part's pins. A request channel carries at most 31 beats
(9.1), a READ period has a first byte, a HELD-ANSWER or PROBE-WRITE reaches its block only with a count
that agrees with its length (R181), the two refusals of the link name frames it refuses, and the row
WATCH_STATE is a request whose parameter is none of the four. -/

namespace Sys2Proof

/-- The request code and payload a BAD_REQUEST period carries must be refused by R162. -/
def refusedByLink (bytes : List Byte) : Bool :=
  match Machine.openFrame bytes with
  | none => false
  | some (code, payload) => ! Machine.lengthPermitted code payload

/-- The command can occur at the pins of the part. -/
def Instr.wellFormed : Instr → Bool
  | .acceptance _ _ _ (.write beats) => beats.length ≤ 31
  | .readPeriod bytes _ => 1 ≤ bytes
  | .badFrame bytes =>
    match bytes with
    | [] => false
    | b :: _ => b != 0xFF && (Machine.openFrame bytes).isNone
  | .badRequest bytes => bytes.head? != some 0xFF && refusedByLink bytes
  | .heldAnswer _ values => values.length ≤ 16
  | .probeWrite _ beats => beats.length ≤ 17
  | .watchState _ parameter => 4 ≤ parameter.toNat
  | .acceptance _ _ _ (.read _) => true
  | .delivery | .grant | .answer _ _ _ | .responseTimerExpiry _ | .holdTimerExpiry _ => true
  | .sysrstAssertion _ | .sysrstRelease | .powerOn _ _ | .powerOnBegin | .responseReady => true
  | .ident | .clear | .setResponseLimit _ | .watchWrite _ _ | .watchRead _ => true
  | .disable _ | .enableLive _ | .enableDormant _ | .rearm _ => true
  | .tagRead _ | .tagFreeze _ | .tagResume _ | .tagStep _ _ | .tagWithdraw _ _ | .tagLimit _ _ _ => true
  | .heldList _ | .heldPatch _ _ _ _ => true
  | .eventTake | .eventStatus | .eventDiscard => true
  | .waitPost _ _ _ _ | .waitCancel _ | .waitTake | .attnSet _ => true
  | .probeRead _ _ | .probeResult | .probeCancel => true

end Sys2Proof
end

