-- ==== Sys2Proof/Decode.lean ====
section
/-! DEFINITION. From bytes to commands and back. spec/opcode_table.json gives no row any bits, so
`decodeTableWord` spells no command. What the manual does encode is the chip-select period of the
service link: `decodePeriod` reads a command from the complete bytes of a period (R158, R161, R162,
R181 and the layouts of chapter 10), and `Instr.period` writes the bytes that carry a command. -/

namespace Sys2Proof

open Machine

/-- The command that a word spells by the table's bits: no row of the table gives bits, so none. -/
def decodeTableWord (_nbits _w : Nat) : Option Instr := none

/-- The request code of a command that is carried by a request frame (10.2). -/
def Instr.requestCode : Instr → Option Byte
  | .ident => some 0x01
  | .clear => some 0x02
  | .setResponseLimit _ => some 0x03
  | .watchWrite _ _ => some 0x10
  | .watchRead _ => some 0x11
  | .disable _ | .enableLive _ | .enableDormant _ | .rearm _ | .watchState _ _ => some 0x12
  | .tagRead _ => some 0x20
  | .tagFreeze _ => some 0x21
  | .tagResume _ => some 0x22
  | .tagStep _ _ => some 0x23
  | .tagWithdraw _ _ => some 0x24
  | .tagLimit _ _ _ => some 0x25
  | .heldList _ => some 0x26
  | .heldPatch _ _ _ _ => some 0x27
  | .heldAnswer _ _ => some 0x28
  | .eventTake => some 0x30
  | .eventStatus => some 0x31
  | .eventDiscard => some 0x32
  | .waitPost _ _ _ _ => some 0x33
  | .waitCancel _ => some 0x34
  | .waitTake => some 0x35
  | .attnSet _ => some 0x36
  | .probeRead _ _ => some 0x40
  | .probeWrite _ _ => some 0x41
  | .probeResult => some 0x42
  | .probeCancel => some 0x43
  | .acceptance _ _ _ _ | .delivery | .grant | .answer _ _ _ | .responseTimerExpiry _ => none
  | .holdTimerExpiry _ | .sysrstAssertion _ | .sysrstRelease | .powerOn _ _ | .powerOnBegin => none
  | .readPeriod _ _ | .responseReady | .badFrame _ | .badRequest _ => none

/-- The presence mark of a definition: bit 0 data qualifier, bit 1 skip count, bit 2 arms (10.4). -/
def RawDefinition.mark (d : RawDefinition) : Byte :=
  d.markHigh ++ BitVec.ofBool d.arms.isSome ++ BitVec.ofBool d.skip.isSome
    ++ BitVec.ofBool d.qualifier.isSome

/-- A definition as WATCH-WRITE carries it from payload offset 1 onward (10.4). -/
def RawDefinition.bytes (d : RawDefinition) : List Byte :=
  u32Bytes d.base ++ u32Bytes d.limit
    ++ [d.access, d.tags, d.privilege, d.action, d.report, d.start, d.once, d.mark]
    ++ (match d.qualifier with
        | some q => beatBytes q.value ++ beatBytes q.mask
        | none => [])
    ++ (match d.skip with
        | some n => u16Bytes n
        | none => [])
    ++ (match d.arms with
        | some a => [a]
        | none => [])

/-- The payload of the request that carries a command (10.4, 10.7). -/
def Instr.payload : Instr → List Byte
  | .setResponseLimit limit => u16Bytes limit
  | .watchWrite index d => index :: d.bytes
  | .watchRead index => [index]
  | .disable index => [index, 0x00]
  | .enableLive index => [index, 0x01]
  | .enableDormant index => [index, 0x02]
  | .rearm index => [index, 0x03]
  | .watchState index parameter => [index, parameter]
  | .tagRead tag => [tag]
  | .tagFreeze tag => [tag]
  | .tagResume tag => [tag]
  | .tagStep tag n => tag :: u16Bytes n
  | .tagWithdraw tag after => [tag, after]
  | .tagLimit tag limit policy => tag :: u16Bytes limit ++ [policy]
  | .heldList tag => [tag]
  | .heldPatch tag beat data enables => tag :: beat :: beatBytes data ++ [enables]
  | .heldAnswer tag values => tag :: byteOf values.length :: values.flatMap beatBytes
  | .waitPost handle kinds tags watches => handle :: kinds :: tags :: u16Bytes watches
  | .waitCancel handle => [handle]
  | .attnSet conditions => [conditions]
  | .probeRead address beats => u32Bytes address ++ [beats]
  | .probeWrite address beats =>
    u32Bytes address ++ byteOf beats.length :: beats.flatMap fun b => beatBytes b.data ++ [b.enables]
  | .ident | .clear | .eventTake | .eventStatus | .eventDiscard | .waitTake => []
  | .probeResult | .probeCancel => []
  | .acceptance _ _ _ _ | .delivery | .grant | .answer _ _ _ | .responseTimerExpiry _ => []
  | .holdTimerExpiry _ | .sysrstAssertion _ | .sysrstRelease | .powerOn _ _ | .powerOnBegin => []
  | .readPeriod _ _ | .responseReady | .badFrame _ | .badRequest _ => []

/-- The complete bytes on LDI of the chip-select period that carries a command: the request frame of a
request, the bytes of a refused period, 0FFh throughout a read period, and none for the others. -/
def Instr.period (i : Instr) : List Byte :=
  match i with
  | .badFrame bytes => bytes
  | .badRequest bytes => bytes
  | .readPeriod bytes _ => List.replicate bytes 0xFF
  | _ =>
    match i.requestCode with
    | some code => frame code i.payload
    | none => []

/-- Beat values of 8 bytes each, to the end of the payload. -/
def readBeats : List Byte → Option (List Beat)
  | [] => some []
  | d0 :: d1 :: d2 :: d3 :: d4 :: d5 :: d6 :: d7 :: rest =>
    (readBeats rest).map (beatOf d0 d1 d2 d3 d4 d5 d6 d7 :: ·)
  | _ => none

/-- Beats of 8 data bytes and one byte of enables each, to the end of the payload. -/
def readWriteBeats : List Byte → Option (List WriteBeat)
  | [] => some []
  | d0 :: d1 :: d2 :: d3 :: d4 :: d5 :: d6 :: d7 :: en :: rest =>
    (readWriteBeats rest).map (⟨beatOf d0 d1 d2 d3 d4 d5 d6 d7, en⟩ :: ·)
  | _ => none

/-- The data qualifier of a definition, when its mark bit is set (10.4). -/
def readQualifier (present : Bool) (bytes : List Byte) : Option (Option Qualifier × List Byte) :=
  if present then
    match bytes with
    | v0 :: v1 :: v2 :: v3 :: v4 :: v5 :: v6 :: v7 :: m0 :: m1 :: m2 :: m3 :: m4 :: m5 :: m6 :: m7 :: rest =>
      some (some ⟨beatOf v0 v1 v2 v3 v4 v5 v6 v7, beatOf m0 m1 m2 m3 m4 m5 m6 m7⟩, rest)
    | _ => none
  else some (none, bytes)

/-- The skip count of a definition, when its mark bit is set (10.4). -/
def readSkip (present : Bool) (bytes : List Byte) : Option (Option (BitVec 16) × List Byte) :=
  if present then
    match bytes with
    | hi :: lo :: rest => some (some (u16Of hi lo), rest)
    | _ => none
  else some (none, bytes)

/-- The arms index of a definition, when its mark bit is set (10.4). -/
def readArms (present : Bool) (bytes : List Byte) : Option (Option Byte × List Byte) :=
  if present then
    match bytes with
    | a :: rest => some (some a, rest)
    | _ => none
  else some (none, bytes)

/-- The WATCH-WRITE payload (10.4): `none` where the length disagrees with the presence mark (R181). -/
def readWatchWrite (payload : List Byte) : Option Instr :=
  match payload with
  | index :: b3 :: b2 :: b1 :: b0 :: l3 :: l2 :: l1 :: l0 :: access :: tags :: privilege :: action
      :: report :: start :: once :: mark :: rest => do
    let (qualifier, rest) ← readQualifier (mark.getLsbD 0) rest
    let (skip, rest) ← readSkip (mark.getLsbD 1) rest
    let (arms, rest) ← readArms (mark.getLsbD 2) rest
    match rest with
    | [] =>
      some (.watchWrite index
        { base := u32Of b3 b2 b1 b0, limit := u32Of l3 l2 l1 l0, access, tags, privilege, action,
          report, start, once, markHigh := mark.extractLsb' 3 5, qualifier, skip, arms })
    | _ => none
  | _ => none

/-- The HELD-ANSWER payload: `none` for a count above 16 or one that disagrees with the length (R181). -/
def readHeldAnswer (payload : List Byte) : Option Instr :=
  match payload with
  | tag :: count :: rest =>
    if count.toNat ≤ 16 then
      match readBeats rest with
      | some values => if values.length = count.toNat then some (.heldAnswer tag values) else none
      | none => none
    else none
  | _ => none

/-- The PROBE-WRITE payload: `none` for a beat count that disagrees with the length (R181). -/
def readProbeWrite (payload : List Byte) : Option Instr :=
  match payload with
  | a3 :: a2 :: a1 :: a0 :: count :: rest =>
    match readWriteBeats rest with
    | some beats =>
      if beats.length = count.toNat then some (.probeWrite (u32Of a3 a2 a1 a0) beats) else none
    | none => none
  | _ => none

/-- A request without parameters. -/
def read0 (i : Instr) (payload : List Byte) : Option Instr :=
  match payload with
  | [] => some i
  | _ => none

/-- A request with one byte of parameters. -/
def read1 (i : Byte → Instr) (payload : List Byte) : Option Instr :=
  match payload with
  | [a] => some (i a)
  | _ => none

/-- A WATCH-STATE payload: the four parameter names, or a parameter that is none of them (R30). -/
def readWatchState (payload : List Byte) : Option Instr :=
  match payload with
  | [index, parameter] =>
    match parameter.toNat with
    | 0x00 => some (.disable index)
    | 0x01 => some (.enableLive index)
    | 0x02 => some (.enableDormant index)
    | 0x03 => some (.rearm index)
    | _ => some (.watchState index parameter)
  | _ => none

/-- The request that a code and payload carry; `none` where the code names no request or the length is
not permitted for it (R162, R181). -/
def decodeRequest (code : Byte) (payload : List Byte) : Option Instr :=
  match code.toNat with
  | 0x01 => read0 .ident payload
  | 0x02 => read0 .clear payload
  | 0x03 =>
    match payload with
    | [hi, lo] => some (.setResponseLimit (u16Of hi lo))
    | _ => none
  | 0x10 => readWatchWrite payload
  | 0x11 => read1 .watchRead payload
  | 0x12 => readWatchState payload
  | 0x20 => read1 .tagRead payload
  | 0x21 => read1 .tagFreeze payload
  | 0x22 => read1 .tagResume payload
  | 0x23 =>
    match payload with
    | [tag, hi, lo] => some (.tagStep tag (u16Of hi lo))
    | _ => none
  | 0x24 =>
    match payload with
    | [tag, after] => some (.tagWithdraw tag after)
    | _ => none
  | 0x25 =>
    match payload with
    | [tag, hi, lo, policy] => some (.tagLimit tag (u16Of hi lo) policy)
    | _ => none
  | 0x26 => read1 .heldList payload
  | 0x27 =>
    match payload with
    | [tag, beat, d0, d1, d2, d3, d4, d5, d6, d7, enables] =>
      some (.heldPatch tag beat (beatOf d0 d1 d2 d3 d4 d5 d6 d7) enables)
    | _ => none
  | 0x28 => readHeldAnswer payload
  | 0x30 => read0 .eventTake payload
  | 0x31 => read0 .eventStatus payload
  | 0x32 => read0 .eventDiscard payload
  | 0x33 =>
    match payload with
    | [handle, kinds, tags, hi, lo] => some (.waitPost handle kinds tags (u16Of hi lo))
    | _ => none
  | 0x34 => read1 .waitCancel payload
  | 0x35 => read0 .waitTake payload
  | 0x36 => read1 .attnSet payload
  | 0x40 =>
    match payload with
    | [a3, a2, a1, a0, beats] => some (.probeRead (u32Of a3 a2 a1 a0) beats)
    | _ => none
  | 0x41 => readProbeWrite payload
  | 0x42 => read0 .probeResult payload
  | 0x43 => read0 .probeCancel payload
  | _ => none

/-- The command that a chip-select period is, from its complete bytes on LDI: nothing for a period
without a complete byte, a read period when the first byte is 0FFh (R158), and otherwise a request
period, checked first by R161 and then by R162. Readiness within a read period is not on LDI. -/
def decodePeriod (bytes : List Byte) : Option Instr :=
  match bytes with
  | [] => none
  | first :: _ =>
    if first = 0xFF then some (.readPeriod bytes.length none)
    else
      match openFrame bytes with
      | none => some (.badFrame bytes)
      | some (code, payload) =>
        match decodeRequest code payload with
        | none => some (.badRequest bytes)
        | some i => some i

end Sys2Proof
end

