-- ==== Sys2Proof/Machine/State.lean ====
section
/-! DEFINITION. The state of the WX-60: every piece of state the manual gives to a block, as plain data.
A field that is present only in some state (a close cause, a memory slot, an answer, the steps
remaining) is an argument of the constructor it belongs to. -/

namespace Sys2Proof.Machine

/-! ## Transit records (01) -/

/-- The codes an initiator receives (R16). -/
inductive AnswerCode where
  | done
  | memoryError
  | refused
  | withdrawn
  | noAnswer
  | malformed
deriving DecidableEq, Repr

/-- The answer of an ANSWERED record: its code and, for a READ, one value per beat (R15, R16). -/
structure Answer where
  code : AnswerCode
  data : List Beat
deriving DecidableEq, Repr

/-- The phase of a transit record; the memory slot and the answer are present only in theirs (01, 1.3). -/
inductive Phase where
  | gated
  | ready
  | atMemory (slot : SlotIndex)
  | answered (answer : Answer)
deriving DecidableEq, Repr

/-- The decision of a record (R7, R38). -/
inductive Decision where
  | none
  | note
  | holdBefore
  | holdAfter
  | refuse
  | malformed
deriving DecidableEq, Repr

/-- A transit record (01, 1.3). Its tag is the list it stands in. `id` is the model's own mark that
keeps the link between a stalled event and its record (R104, R113); no output shows it. -/
structure TransitRecord where
  id : Nat
  privilege : Privilege
  access : Access
  address : Addr
  beats : BitVec 5
  writeData : List WriteBeat
  arrival : BitVec 16
  phase : Phase
  stalled : Bool
  decision : Decision
  fired : List WatchIndex
  spent : Bool
deriving DecidableEq, Repr

/-- A response taken from the response channel (R19, 9.1). -/
structure InitiatorResponse where
  tag : Tag
  code : AnswerCode
  data : List Beat
deriving DecidableEq, Repr

/-! ## Watch entries (02) -/

/-- The access an entry watches. -/
inductive AccessFilter where
  | read
  | write
  | either
deriving DecidableEq, Repr

/-- The privilege an entry watches. -/
inductive PrivilegeFilter where
  | any
  | user
  | supervisor
deriving DecidableEq, Repr

/-- What a firing asks for. -/
inductive Action where
  | note
  | holdBefore
  | holdAfter
  | refuse
deriving DecidableEq, Repr

/-- Whether a firing produces an event, and whether that event may stall. -/
inductive Report where
  | none
  | lossy
  | lossless
deriving DecidableEq, Repr

/-- The state of an entry (02, 2.3). -/
inductive EntryState where
  | disabled
  | dormant
  | live
  | spent
deriving DecidableEq, Repr

/-- An entry's definition (02, 2.1). The start state is DORMANT or LIVE. -/
structure Definition where
  base : Addr
  limit : Addr
  access : AccessFilter
  tags : Byte
  privilege : PrivilegeFilter
  qualifier : Option Qualifier
  skip : Option (BitVec 16)
  once : Bool
  arms : Option WatchIndex
  action : Action
  report : Report
  startLive : Bool
deriving DecidableEq, Repr

/-- The matched beat of a data-qualified entry: its index and its 8 bytes (R36). -/
structure MatchedBeat where
  index : Nat
  data : Beat
deriving DecidableEq, Repr

/-- The fields of a transaction that latches and events carry. -/
structure Transaction where
  tag : Tag
  privilege : Privilege
  access : Access
  address : Addr
  beats : BitVec 5
  arrival : BitVec 16
deriving DecidableEq, Repr

/-- A last-match latch that is present (02, 2.1). -/
structure Latch where
  transaction : Transaction
  matched : Option MatchedBeat
deriving DecidableEq, Repr

/-- A watch entry: definition, undefined flag, state, counters and latch (R26). -/
structure WatchEntry where
  undefined : Bool
  definition : Definition
  state : EntryState
  skips : BitVec 16
  fires : BitVec 16
  latch : Option Latch
deriving DecidableEq, Repr

/-! ## Gates (03) -/

/-- What closed a gate. -/
inductive CloseCause where
  | watchBefore
  | watchAfter
  | watchRead
  | freeze
  | stepDone
  | boot
deriving DecidableEq, Repr

/-- The gate state, with the steps remaining while STEPPING and the close cause while CLOSED. -/
inductive GateState where
  | opened
  | stepping (steps : BitVec 16)
  | closed (cause : CloseCause)
deriving DecidableEq, Repr

/-- What an expiry of the hold timer does. -/
inductive ExpiryPolicy where
  | pass
  | withdraw
deriving DecidableEq, Repr

/-- A gate context (03, 3.1). The hold timer is stopped (`none`) or running with the microseconds still
to run; 0 microseconds means that it has run out and its expiry is still to be taken. -/
structure Gate where
  state : GateState
  limit : BitVec 16
  policy : ExpiryPolicy
  timer : Option Nat
deriving DecidableEq, Repr

/-! ## Memory slots (04) -/

/-- What was issued through a BUSY slot: the record of a tag that names the slot, or the probe. -/
inductive Occupant where
  | record (tag : Tag)
  | probe
deriving DecidableEq, Repr

/-- A memory slot (04, 4.1). The response timer is stopped (`none`) or running with the microseconds
still to run. -/
inductive Slot where
  | free
  | busy (occupant : Occupant) (access : Access) (beats : Nat) (limit : BitVec 16) (timer : Option Nat)
  | lingering
deriving DecidableEq, Repr

/-- A request issued on the memory port's request channel (R85). -/
structure MemoryRequest where
  slot : SlotIndex
  access : Access
  address : Addr
  beats : Nat
  writeData : List WriteBeat
deriving DecidableEq, Repr

/-! ## Events (05) -/

/-- The result code of a finished probe (R151, R155). -/
inductive ProbeCode where
  | done
  | memoryError
  | noAnswer
  | targetReset
deriving DecidableEq, Repr

/-- What WATCH and WATCH-READ events carry beside the transaction (R40, R44). -/
structure Firing where
  fired : List WatchIndex
  action : Action
  gateClosed : Bool
  matched : Option MatchedBeat
deriving DecidableEq, Repr

/-- An event as its producing block fixes it, one constructor per kind (05, 5.1 and 5.2). -/
inductive Event where
  | watch (transaction : Transaction) (firing : Firing)
  | watchRead (transaction : Transaction) (firing : Firing)
  | holdExpired (tag : Tag) (cause : CloseCause) (policy : ExpiryPolicy) (withdrawn : Nat)
  | noAnswer (transaction : Transaction)
  | malformed (transaction : Transaction)
  | targetReset
  | probeDone (code : ProbeCode)
deriving DecidableEq, Repr

/-- A delivered event: with its sequence number and lost before (R106). -/
structure Delivered where
  sequence : BitVec 16
  lostBefore : Byte
  event : Event
deriving DecidableEq, Repr

/-- The link from a stalled event to its record (R104): the record's tag and the model's mark of it. -/
structure RecordLink where
  tag : Tag
  id : Nat
deriving DecidableEq, Repr

/-- An entry of the stall list (R113). -/
structure Stalled where
  event : Event
  link : RecordLink
deriving DecidableEq, Repr

/-! ## Waits (06) -/

/-- A wait's selector: sets of kinds, tags and watch indices as the layouts encode them (R127, R180). -/
structure Selector where
  kinds : Byte
  tags : Byte
  watches : BitVec 16
deriving DecidableEq, Repr

/-- A PENDING wait. -/
structure PendingWait where
  handle : Byte
  selector : Selector
deriving DecidableEq, Repr

/-- A COMPLETE wait with the event it holds. -/
structure CompleteWait where
  handle : Byte
  selector : Selector
  event : Delivered
deriving DecidableEq, Repr

/-! ## The probe (07) -/

/-- The request contents of a probe (07, 7.1); `writeData` holds one beat per beat of a WRITE. -/
structure ProbeRequest where
  access : Access
  address : Addr
  beats : Nat
  writeData : List WriteBeat
deriving DecidableEq, Repr

/-- The probe context (07, 7.1). -/
inductive Probe where
  | idle
  | queued (request : ProbeRequest)
  | atMemory (request : ProbeRequest)
  | done (request : ProbeRequest) (code : ProbeCode) (data : List Beat)
deriving DecidableEq, Repr

/-! ## The service link (08) -/

/-- The held response: none, or its frame while PREPARING or READY (08, 8.4). -/
inductive HeldResponse where
  | none
  | preparing (frame : List Byte)
  | ready (frame : List Byte)
deriving DecidableEq, Repr

/-- A chip-select period in progress (R157, R158). `bits` are the bits received of the byte in progress, first
one first, and `received` the complete bytes. `sending` is the outgoing byte, begun when `index` bytes were
complete, `place` its place in the response frame, absent for a 0FFh that belongs to none (R166), and `shown`
the number of its bits that LDO has left behind. -/
structure LinkPeriod where
  bits : List Bool
  received : List Byte
  sending : Byte
  place : Option Nat
  index : Nat
  shown : Nat
deriving DecidableEq, Repr

/-! ## Pins below the commands (08, 8.1; 09, 9.4) -/

/-- A change of a pin that no row of the command table stands for: an edge of LCS_N, a rising edge of LCK with
the level of LDI that is sampled at it, a falling edge of LCK (R157), and the stopping and running of CLK
(R178). -/
inductive PinChange where
  | lcsFall
  | lcsRise
  | lckRise (ldi : Bool)
  | lckFall
  | clkStop
  | clkRun
deriving DecidableEq, Repr

/-! ## The state -/

/-- The state of the part, block by block, and the queue of the commands that wait. -/
@[ext]
structure State where
  /-- The commands waiting to be taken, first in, first out (the model's own). -/
  pending : List Instr
  /-- The pin changes waiting to be taken, first in, first out (the model's own, log entry 19). -/
  pins : List PinChange
  /-- Power-on has completed (R177). -/
  powered : Bool
  /-- CLK runs (R178). -/
  clkRunning : Bool
  /-- SYSRST_N counts as asserted (R175, R176). -/
  sysrst : Bool
  /-- The arrival counter (R4). -/
  arrival : BitVec 16
  /-- The tag whose response the response channel offers (R20). -/
  offer : Option Tag
  /-- The tag of the response last taken (R20). -/
  lastTag : Tag
  /-- The response last transferred on the response channel (an output kept by the model). -/
  lastResponse : Option InitiatorResponse
  /-- The transit table: each tag's records, oldest first (R9). -/
  records : Vector (List TransitRecord) 8
  /-- The mark the next record gets (the model's own, for `TransitRecord.id`). -/
  nextId : Nat
  /-- The watch table (R26). -/
  entries : Vector WatchEntry 16
  /-- The gate contexts (R51). -/
  gates : Vector Gate 8
  /-- The memory slots (R81). -/
  slots : Vector Slot 16
  /-- The response limit in microseconds, 0 for none (R91). -/
  responseLimit : BitVec 16
  /-- The arbiter position (R83). -/
  arbiter : Contender
  /-- The request last issued on the memory port's request channel (an output kept by the model). -/
  memoryRequest : Option MemoryRequest
  /-- The event store, oldest first (R109). -/
  store : List Delivered
  /-- The stall list, oldest first (R113). -/
  stalls : List Stalled
  /-- The lost counter (R107). -/
  lost : Byte
  /-- The event sequence counter (R106). -/
  sequence : BitVec 16
  /-- The PENDING waits in the pending order (R126). -/
  waitsPending : List PendingWait
  /-- The COMPLETE waits in the completion order (R126). -/
  waitsComplete : List CompleteWait
  /-- The COMPLETIONS condition is enabled (R141). -/
  enableCompletions : Bool
  /-- The STORED condition is enabled (R141). -/
  enableStored : Bool
  /-- The probe context (R145). -/
  probe : Probe
  /-- The level of LCS_N is low (R157, R172). -/
  lcsLow : Bool
  /-- The chip-select period in progress, bit by bit (R157). -/
  period : Option LinkPeriod
  /-- The held response of the service link (R165). -/
  held : HeldResponse
  /-- The request buffer: the first 163 complete bytes of the last request period (R159). -/
  requestBuffer : List Byte
  /-- The count of complete bytes of the last request period (R159). -/
  requestCount : Nat
  /-- The bytes sent on LDO in the last chip-select period (an output kept by the model). -/
  ldo : List Byte
deriving DecidableEq, Repr

/-! ## How a step can stop -/

/-- Faults. No command of the part faults: the manual gives every command an effect in every state,
so this type has no constructor, which is safe (no claim rests on a stop). -/
inductive Fault where
deriving DecidableEq, Repr

/-- Refusals. -/
inductive Refusal where
  /-- Raised only by an arm of `exec` for a command that has no meaning yet; safe, since the model stops.
  No arm raises it. -/
  | notModelled (mnemonic : String)
deriving DecidableEq, Repr

/-- The outcome of a command. -/
abbrev Result := Host.Outcome State Fault Refusal

/-! ## Reset values -/

/-- The power-on definition of a watch entry (R48). -/
def Definition.powerOn : Definition where
  base := 0
  limit := 0
  access := .either
  tags := 0
  privilege := .any
  qualifier := none
  skip := none
  once := false
  arms := none
  action := .note
  report := .none
  startLive := false

/-- A watch entry after power-on or CLEAR (R48, R49). -/
def WatchEntry.powerOn : WatchEntry where
  undefined := true
  definition := .powerOn
  state := .disabled
  skips := 0
  fires := 0
  latch := none

/-- The gate state that the sampled level of HOLDBOOT gives (R77). -/
def GateState.boot (holdboot : Bool) : GateState :=
  if holdboot then .closed .boot else .opened

/-- A gate context after power-on (R79). -/
def Gate.powerOn (holdboot : Bool) : Gate where
  state := .boot holdboot
  limit := 0
  policy := .pass
  timer := none

/-- The state at the completion of power-on, with the levels of HOLDBOOT, SYSRST_N and LCS_N
(R22, R48, R79, R98, R120, R142, R156, R172, R176, R177) and the commands `waiting` and pin changes `pins`
outside. -/
def State.powerOn (holdboot sysrstLow lcsLow : Bool) (waiting : List Instr) (pins : List PinChange) : State where
  pending := waiting
  pins := pins
  powered := true
  clkRunning := true
  sysrst := sysrstLow
  arrival := 0
  offer := none
  lastTag := 7
  lastResponse := none
  records := Vector.replicate 8 []
  nextId := 0
  entries := Vector.replicate 16 .powerOn
  gates := Vector.replicate 8 (.powerOn holdboot)
  slots := Vector.replicate 16 .free
  responseLimit := Config.powerOnResponseLimit
  arbiter := 8
  memoryRequest := none
  store := []
  stalls := []
  lost := 0
  sequence := 0
  waitsPending := []
  waitsComplete := []
  enableCompletions := true
  enableStored := false
  probe := .idle
  lcsLow := lcsLow
  period := none
  held := .none
  requestBuffer := []
  requestCount := 0
  ldo := []

/-- The part right after reset: power-on completed with HOLDBOOT unconnected, which its pull-down makes
low (R174), and SYSRST_N and LCS_N high (DESIGN CHOICE, log entry 1), and nothing waiting. -/
def State.reset : State := .powerOn false false false [] []

end Sys2Proof.Machine
end

