-- ==== Sys2Proof/Machine/Operands.lean ====
section
/-! DEFINITION. The operands of the commands: reading an index, an enumeration or a watch definition
from its raw payload fields (10.3, R183), the well-formedness tests of a transaction or probe (R5, R146),
and the data values an answer supplies (R68, R87). -/

namespace Sys2Proof.Machine

/-- A tag byte: `none` for 8 to 255 (R59, R183). -/
def tagOf (b : Byte) : Option Tag :=
  if h : b.toNat < 8 then some ⟨b.toNat, h⟩ else none

/-- An entry index or arms index: `none` for 16 to 255 (R27, R30, R47, R183). -/
def watchOf (b : Byte) : Option WatchIndex :=
  if h : b.toNat < 16 then some ⟨b.toNat, h⟩ else none

/-- The access of a definition (10.3). -/
def accessFilterOf (b : Byte) : Option AccessFilter :=
  match b.toNat with
  | 0 => some .read
  | 1 => some .write
  | 2 => some .either
  | _ => none

/-- The privilege filter of a definition (10.3). -/
def privilegeFilterOf (b : Byte) : Option PrivilegeFilter :=
  match b.toNat with
  | 0 => some .any
  | 1 => some .user
  | 2 => some .supervisor
  | _ => none

/-- The action of a definition: 01h to 04h (10.3). -/
def actionOf (b : Byte) : Option Action :=
  match b.toNat with
  | 1 => some .note
  | 2 => some .holdBefore
  | 3 => some .holdAfter
  | 4 => some .refuse
  | _ => none

/-- The report of a definition (10.3). -/
def reportOf (b : Byte) : Option Report :=
  match b.toNat with
  | 0 => some .none
  | 1 => some .lossy
  | 2 => some .lossless
  | _ => none

/-- The start state of a definition, `true` for LIVE: 01h DORMANT, 02h LIVE (10.3). -/
def startLiveOf (b : Byte) : Option Bool :=
  match b.toNat with
  | 1 => some false
  | 2 => some true
  | _ => none

/-- A yes-or-no field: 00h or 01h (R180, R183). -/
def yesNoOf (b : Byte) : Option Bool :=
  match b.toNat with
  | 0 => some false
  | 1 => some true
  | _ => none

/-- An expiry policy: 00h PASS, 01h WITHDRAW (10.3). -/
def policyOf (b : Byte) : Option ExpiryPolicy :=
  match b.toNat with
  | 0 => some .pass
  | 1 => some .withdraw
  | _ => none

/-- The gate state a TAG-WITHDRAW leaves: after OPEN, or after CLOSED with cause FREEZE (R64). -/
def afterOf (b : Byte) : Option GateState :=
  match b.toNat with
  | 0 => some .opened
  | 1 => some (.closed .freeze)
  | _ => none

/-- The arms field: absent, an index, or (outer `none`) an index above 15. -/
def armsOf (raw : Option Byte) : Option (Option WatchIndex) :=
  match raw with
  | none => some none
  | some b => (watchOf b).map some

/-- Step 2 of the WATCH-WRITE checks (R27): every field value is one listed for its field, and bits 3
to 7 of the presence mark are clear (R183). -/
def definitionOf (raw : RawDefinition) : Option Definition := do
  let access ← accessFilterOf raw.access
  let privilege ← privilegeFilterOf raw.privilege
  let action ← actionOf raw.action
  let report ← reportOf raw.report
  let startLive ← startLiveOf raw.start
  let once ← yesNoOf raw.once
  let arms ← armsOf raw.arms
  if raw.markHigh = 0 then
    some { base := raw.base, limit := raw.limit, access, tags := raw.tags, privilege,
           qualifier := raw.qualifier, skip := raw.skip, once, arms, action, report, startLive }
  else none

/-- Step 3 of the WATCH-WRITE checks (R27) for the entry `index`. -/
def Definition.permitted (index : WatchIndex) (d : Definition) : Bool :=
  d.base.toNat ≤ d.limit.toNat
    && d.tags != 0
    && !(d.qualifier.isSome && d.access == .either)
    && d.arms != some index
    && !(d.access == .read && d.qualifier.isSome && (d.action == .holdBefore || d.action == .refuse))

/-- The well-formedness tests of R5, which R146 applies to probes as well: the address a multiple of 8,
1 to 16 beats, every byte in one 4096-byte block, and, for a WRITE, a byte enabled in every beat. -/
def transferWellFormed (access : Access) (address : Addr) (beats : Nat) (data : List WriteBeat) : Bool :=
  address.toNat % 8 == 0
    && (1 ≤ beats && beats ≤ Config.maxBeats)
    && address.toNat % 4096 + 8 * beats ≤ 4096
    && (access == .read || data.all fun b => b.enables != 0)

/-- `n` data values: the supplied ones in order, zero for each that is not supplied, and none beyond
`n` (R68, R87). -/
def supplied : Nat → List Beat → List Beat
  | 0, _ => []
  | n + 1, [] => 0 :: supplied n []
  | n + 1, v :: vs => v :: supplied n vs

/-- The data of an answer: `values` for each beat of a READ, none for a WRITE (R16). -/
def answerData (access : Access) (beats : Nat) (values : List Beat) : List Beat :=
  match access with
  | .read => supplied beats values
  | .write => []

/-- A lane's access. -/
def bodyAccess : RequestBody → Access
  | .read _ => .read
  | .write _ => .write

/-- A lane's beat count, as its 5 wires carry it (9.1). -/
def bodyBeats : RequestBody → BitVec 5
  | .read beats => beats
  | .write beats => BitVec.ofNat 5 beats.length

/-- The data and enables taken at an acceptance: one for each beat of the offered count (R1). -/
def bodyData (body : RequestBody) : List WriteBeat :=
  match body with
  | .read _ => []
  | .write beats => beats.take (bodyBeats body).toNat

end Sys2Proof.Machine
end

