-- ==== Sys2Proof/Machine/Flags.lean ====
section
/-! DEFINITION. The conditions and output lines that follow from the state: rooms (R2), deliverable and
offered responses (R19, R20), contenders and free slots (R82, R83), the attention conditions and ATTN
(R140, R179), when the part takes events and chip-select periods (R172, R177, R178), and LDO (R157). -/

namespace Sys2Proof.Machine

/-! ## Power, clock and chip select -/

/-- The part takes events: power-on has completed (R177) and CLK runs (R178). -/
def State.takesEvents (s : State) : Bool := s.powered && s.clkRunning

/-- The link can take a whole chip-select period: the part takes events, and LCS_N is high, so that the next
falling edge begins a period (R157, R172, R178). -/
def State.takesPeriods (s : State) : Bool := s.takesEvents && !s.lcsLow

/-- LDO: undriven while LCS_N is high, during power-on, and where no period was taken (R157, R172, R177); in a
period the bit of the outgoing byte that stands after the falling edges so far, most significant bit
first. -/
def State.ldoPin (s : State) : Option Bool :=
  if s.powered && s.lcsLow then s.period.map fun p => p.sending.getLsbD (7 - p.shown) else none

/-! ## Records -/

/-- The record is GATED. -/
def TransitRecord.isGated (r : TransitRecord) : Bool :=
  match r.phase with
  | .gated => true
  | _ => false

/-- The record is READY. -/
def TransitRecord.isReady (r : TransitRecord) : Bool :=
  match r.phase with
  | .ready => true
  | _ => false

/-- The record is AT-MEMORY. -/
def TransitRecord.isAtMemory (r : TransitRecord) : Bool :=
  match r.phase with
  | .atMemory _ => true
  | _ => false

/-- The record is AT-MEMORY in the given slot. -/
def TransitRecord.inSlot (slot : SlotIndex) (r : TransitRecord) : Bool :=
  match r.phase with
  | .atMemory k => k == slot
  | _ => false

/-- The record is ANSWERED. -/
def TransitRecord.isAnswered (r : TransitRecord) : Bool :=
  match r.phase with
  | .answered _ => true
  | _ => false

/-- The fields of a record that latches and events carry. -/
def TransitRecord.transaction (tag : Tag) (r : TransitRecord) : Transaction where
  tag := tag
  privilege := r.privilege
  access := r.access
  address := r.address
  beats := r.beats
  arrival := r.arrival

/-- The tag has at least one GATED record. -/
def hasGated (l : List TransitRecord) : Bool := l.any (·.isGated)

/-- The head of a tag: its oldest GATED record (R9). -/
def headOf (l : List TransitRecord) : Option TransitRecord := l.find? (·.isGated)

/-- The record carries a HOLD-BEFORE that is still unspent (R53). -/
def TransitRecord.holdsBefore (r : TransitRecord) : Bool := r.decision == .holdBefore && !r.spent

/-- The gate is CLOSED. -/
def GateState.isClosed : GateState → Bool
  | .closed _ => true
  | _ => false

/-! ## Rooms and responses -/

/-- The room of a tag: 4 minus the number of its records (R2). -/
def State.room (s : State) (tag : Tag) : Nat := Config.recordsPerTag - s.records[tag].length

/-- What the lane's room indication shows: the room, or 0 while power-on is in progress (R2, R173, R177). -/
def State.roomIndication (s : State) (tag : Tag) : Nat := if s.powered then s.room tag else 0

/-- The response of the tag's oldest record, when it is deliverable: ANSWERED and not stalled (R19). -/
def State.deliverable (s : State) (tag : Tag) : Option InitiatorResponse :=
  match s.records[tag] with
  | [] => none
  | r :: _ =>
    match r.phase with
    | .answered a => if r.stalled then none else some ⟨tag, a.code, a.data⟩
    | _ => none

/-- The eight tags in the order of the response rotation: the one after the tag last taken comes first,
that tag itself last (R20). -/
def State.responseOrder (s : State) : List Tag :=
  [s.lastTag + 1, s.lastTag + 2, s.lastTag + 3, s.lastTag + 4, s.lastTag + 5, s.lastTag + 6,
   s.lastTag + 7, s.lastTag]

/-- The response the response channel offers (R19, R20). -/
def State.offeredResponse (s : State) : Option InitiatorResponse :=
  match s.offer with
  | some tag => s.deliverable tag
  | none => none

/-! ## The memory port -/

/-- The slot is FREE. -/
def Slot.isFree : Slot → Bool
  | .free => true
  | _ => false

/-- The slot is BUSY. -/
def Slot.isBusy : Slot → Bool
  | .busy _ _ _ _ _ => true
  | _ => false

/-- The slot is LINGERING. -/
def Slot.isLingering : Slot → Bool
  | .lingering => true
  | _ => false

/-- The slot is BUSY with the probe. -/
def Slot.holdsProbe : Slot → Bool
  | .busy .probe _ _ _ _ => true
  | _ => false

/-- The lowest-numbered FREE slot (R83). -/
def State.freeSlot (s : State) : Option SlotIndex := allSlots.find? fun k => s.slots[k].isFree

/-- The number of slots BUSY (R97). -/
def State.busySlots (s : State) : Nat := (allSlots.filter fun k => s.slots[k].isBusy).length

/-- The number of slots LINGERING (R97). -/
def State.lingeringSlots (s : State) : Nat := (allSlots.filter fun k => s.slots[k].isLingering).length

/-- The probe is QUEUED. -/
def Probe.isQueued : Probe → Bool
  | .queued _ => true
  | _ => false

/-- The tag a ring place belongs to; `none` for the probe's place (R83). -/
def contenderTag (c : Contender) : Option Tag :=
  if h : c.val < 8 then some ⟨c.val, h⟩ else none

/-- The ring place contends: a tag with a READY record, or the probe while QUEUED (R82). -/
def State.contends (s : State) (c : Contender) : Bool :=
  match contenderTag c with
  | some tag => s.records[tag].any (·.isReady)
  | none => s.probe.isQueued

/-- The nine ring places in search order: the one after the arbiter position first (R83). -/
def State.searchOrder (s : State) : List Contender :=
  [s.arbiter + 1, s.arbiter + 2, s.arbiter + 3, s.arbiter + 4, s.arbiter + 5, s.arbiter + 6,
   s.arbiter + 7, s.arbiter + 8, s.arbiter]

/-- The contender the next grant goes to (R83). -/
def State.nextContender (s : State) : Option Contender := s.searchOrder.find? s.contends

/-! ## Attention -/

/-- COMPLETIONS holds while a wait is COMPLETE (R140). -/
def State.completionsHold (s : State) : Bool := !s.waitsComplete.isEmpty

/-- STORED holds while the store holds an event (R140). -/
def State.storedHolds (s : State) : Bool := !s.store.isEmpty

/-- ATTN is asserted while an enabled condition holds (R140). -/
def State.attn (s : State) : Bool :=
  (s.enableCompletions && s.completionsHold) || (s.enableStored && s.storedHolds)

/-- The part pulls ATTN_N low; otherwise it leaves ATTN_N undriven, as during power-on (R177, R179). -/
def State.attnDrivenLow (s : State) : Bool := s.powered && s.attn

/-- A set of attention conditions as one byte: bit 0 COMPLETIONS, bit 1 STORED (R180). -/
def conditionsByte (completions stored : Bool) : Byte :=
  byteOf ((if completions then 1 else 0) + (if stored then 2 else 0))

/-- The number of non-free waits (R125). -/
def State.nonFreeWaits (s : State) : Nat := s.waitsPending.length + s.waitsComplete.length

/-- A non-free wait holds the handle (R125). -/
def State.handleInUse (s : State) (handle : Byte) : Bool :=
  s.waitsPending.any (·.handle == handle) || s.waitsComplete.any (·.handle == handle)

end Sys2Proof.Machine
end

