-- ==== Sys2Proof/Machine/Payload.lean ====
section
/-! DEFINITION. Statuses, replies and the payload layouts of responses (chapter 10). -/

namespace Sys2Proof.Machine

/-- The statuses of a response frame (08, 8.5). -/
inductive Status where
  | ok
  | badFrame
  | badRequest
  | badIndex
  | badValue
  | badState
  | busy
  | full
  | empty
  | inUse
  | noSuch
  | tooLate
deriving DecidableEq, Repr

/-- The status codes of 10.2. -/
def Status.code : Status → Byte
  | .ok => 0x00
  | .badFrame => 0x01
  | .badRequest => 0x02
  | .badIndex => 0x03
  | .badValue => 0x04
  | .badState => 0x05
  | .busy => 0x06
  | .full => 0x07
  | .empty => 0x08
  | .inUse => 0x09
  | .noSuch => 0x0A
  | .tooLate => 0x0B

/-- What an owning block answers: OK with a payload, or another status, which has an empty payload (R164). -/
inductive Reply where
  | ok (payload : List Byte)
  | refuse (status : Status)
deriving DecidableEq, Repr

/-- The response frame of a reply (R164). -/
def Reply.frame : Reply → List Byte
  | .ok payload => Machine.frame Status.ok.code payload
  | .refuse status => Machine.frame status.code []

/-! ## Codes (10.3) -/

/-- Access codes. -/
def accessCode : Access → Byte
  | .read => 0x00
  | .write => 0x01

/-- Access codes of a definition. -/
def AccessFilter.code : AccessFilter → Byte
  | .read => 0x00
  | .write => 0x01
  | .either => 0x02

/-- Privilege codes. -/
def privilegeCode : Privilege → Byte
  | .user => 0x00
  | .supervisor => 0x01

/-- Privilege filter codes. -/
def PrivilegeFilter.code : PrivilegeFilter → Byte
  | .any => 0x00
  | .user => 0x01
  | .supervisor => 0x02

/-- Action codes, which share the decisions' code space. -/
def Action.code : Action → Byte
  | .note => 0x01
  | .holdBefore => 0x02
  | .holdAfter => 0x03
  | .refuse => 0x04

/-- Decision codes. -/
def Decision.code : Decision → Byte
  | .none => 0x00
  | .note => 0x01
  | .holdBefore => 0x02
  | .holdAfter => 0x03
  | .refuse => 0x04
  | .malformed => 0x05

/-- Report codes. -/
def Report.code : Report → Byte
  | .none => 0x00
  | .lossy => 0x01
  | .lossless => 0x02

/-- Entry state codes. -/
def EntryState.code : EntryState → Byte
  | .disabled => 0x00
  | .dormant => 0x01
  | .live => 0x02
  | .spent => 0x03

/-- Phase codes. -/
def Phase.code : Phase → Byte
  | .gated => 0x00
  | .ready => 0x01
  | .atMemory _ => 0x02
  | .answered _ => 0x03

/-- Answer codes. -/
def AnswerCode.code : AnswerCode → Byte
  | .done => 0x00
  | .memoryError => 0x01
  | .refused => 0x02
  | .withdrawn => 0x03
  | .noAnswer => 0x04
  | .malformed => 0x05

/-- Gate state codes. -/
def GateState.code : GateState → Byte
  | .opened => 0x00
  | .stepping _ => 0x01
  | .closed _ => 0x02

/-- Close cause codes. -/
def CloseCause.code : CloseCause → Byte
  | .watchBefore => 0x00
  | .watchAfter => 0x01
  | .watchRead => 0x02
  | .freeze => 0x03
  | .stepDone => 0x04
  | .boot => 0x05

/-- Expiry policy codes. -/
def ExpiryPolicy.code : ExpiryPolicy → Byte
  | .pass => 0x00
  | .withdraw => 0x01

/-- Event kind codes. -/
def Event.kind : Event → Nat
  | .watch _ _ => 0
  | .watchRead _ _ => 1
  | .holdExpired _ _ _ _ => 2
  | .noAnswer _ => 3
  | .malformed _ => 4
  | .targetReset => 5
  | .probeDone _ => 6

/-- Probe result codes. -/
def ProbeCode.code : ProbeCode → Byte
  | .done => 0x00
  | .memoryError => 0x01
  | .noAnswer => 0x02
  | .targetReset => 0x03

/-- Probe state codes. -/
def Probe.code : Probe → Byte
  | .idle => 0x00
  | .queued _ => 0x01
  | .atMemory _ => 0x02
  | .done _ _ _ => 0x03

/-! ## Watch entries (10.4) -/

/-- The definition as WATCH-READ returns it, laid out as WATCH-WRITE offsets 1 onward. -/
def Definition.bytes (d : Definition) : List Byte :=
  u32Bytes d.base ++ u32Bytes d.limit
    ++ [d.access.code, d.tags, d.privilege.code, d.action.code, d.report.code,
        if d.startLive then 0x02 else 0x01, boolByte d.once,
        byteOf ((if d.qualifier.isSome then 1 else 0) + (if d.skip.isSome then 2 else 0)
          + (if d.arms.isSome then 4 else 0))]
    ++ (match d.qualifier with
        | some q => beatBytes q.value ++ beatBytes q.mask
        | none => [])
    ++ (match d.skip with
        | some n => u16Bytes n
        | none => [])
    ++ (match d.arms with
        | some a => [byteOf a.val]
        | none => [])

/-- A latch behind its mark: 00h absent, 01h present, 02h present with matched beat. -/
def latchBytes : Option Latch → List Byte
  | none => [0x00]
  | some l =>
    let t := l.transaction
    let fields := u16Bytes t.arrival ++ [byteOf t.tag.val, privilegeCode t.privilege, accessCode t.access]
      ++ u32Bytes t.address ++ [byteOf t.beats.toNat]
    match l.matched with
    | none => 0x01 :: fields
    | some m => 0x02 :: fields ++ byteOf m.index :: beatBytes m.data

/-- The WATCH-READ response (R47, 10.4). -/
def WatchEntry.bytes (index : WatchIndex) (e : WatchEntry) : List Byte :=
  byteOf index.val :: boolByte e.undefined :: e.state.code :: e.definition.bytes
    ++ u16Bytes e.skips ++ u16Bytes e.fires ++ latchBytes e.latch

/-! ## Gate contexts and HELD-LIST entries (10.5) -/

/-- The time left of a running hold timer in units of 100 µs, a partly elapsed unit counted as whole and
never less than 1 (R66). -/
def unitsLeft (micros : Nat) : BitVec 16 :=
  BitVec.ofNat 16 (max 1 ((micros + 99) / Config.holdUnit))

/-- The steps remaining of a gate: 0 outside STEPPING (03, 3.1). -/
def GateState.steps : GateState → BitVec 16
  | .stepping n => n
  | _ => 0

/-- The gate context block of 11 bytes. -/
def Gate.bytes (tag : Tag) (g : Gate) : List Byte :=
  [byteOf tag.val, g.state.code,
    match g.state with
    | .closed cause => cause.code
    | _ => 0xFF]
    ++ u16Bytes g.state.steps ++ u16Bytes g.limit ++ [g.policy.code, boolByte g.timer.isSome]
    ++ (match g.timer with
        | some micros => u16Bytes (unitsLeft micros)
        | none => [0, 0])

/-- A set of watch indices as a 16-bit number (R180). -/
def watchSet (l : List WatchIndex) : BitVec 16 :=
  l.foldl (fun acc i => acc ||| BitVec.twoPow 16 i.val) 0

/-- A HELD-LIST entry of 16 bytes. -/
def TransitRecord.bytes (r : TransitRecord) : List Byte :=
  u16Bytes r.arrival ++ [r.phase.code, boolByte r.stalled, accessCode r.access] ++ u32Bytes r.address
    ++ [byteOf r.beats.toNat, r.decision.code] ++ u16Bytes (watchSet r.fired)
    ++ [boolByte r.spent,
        match r.phase with
        | .atMemory k => byteOf k.val
        | _ => 0xFF,
        match r.phase with
        | .answered a => a.code.code
        | _ => 0xFF]

/-- The number of records that satisfy a test, as one byte. -/
def countByte (p : TransitRecord → Bool) (l : List TransitRecord) : Byte := byteOf (l.filter p).length

/-- The TAG-READ response (R76, 10.5). -/
def tagReadBytes (tag : Tag) (g : Gate) (l : List TransitRecord) : List Byte :=
  g.bytes tag ++ [countByte (·.isGated) l, countByte (·.isReady) l, countByte (·.isAtMemory) l,
    countByte (·.isAnswered) l]

/-- The HELD-LIST response (R66, 10.5). -/
def heldListBytes (tag : Tag) (g : Gate) (l : List TransitRecord) : List Byte :=
  g.bytes tag ++ byteOf l.length :: l.flatMap TransitRecord.bytes

/-! ## Events (10.6) -/

/-- The transaction part of an event body, 10 bytes. -/
def Transaction.bytes (t : Transaction) : List Byte :=
  [byteOf t.tag.val, privilegeCode t.privilege, accessCode t.access] ++ u32Bytes t.address
    ++ byteOf t.beats.toNat :: u16Bytes t.arrival

/-- What follows the transaction part in a WATCH or WATCH-READ body. -/
def Firing.bytes (f : Firing) : List Byte :=
  u16Bytes (watchSet f.fired) ++ [f.action.code, boolByte f.gateClosed]
    ++ (match f.matched with
        | some m => 0x01 :: byteOf m.index :: beatBytes m.data
        | none => [0x00])

/-- The body of an event record. -/
def Event.body : Event → List Byte
  | .watch t f => t.bytes ++ f.bytes
  | .watchRead t f => t.bytes ++ f.bytes
  | .holdExpired tag cause policy withdrawn =>
    [byteOf tag.val, cause.code, policy.code, byteOf withdrawn]
  | .noAnswer t => t.bytes
  | .malformed t => t.bytes
  | .targetReset => []
  | .probeDone code => [code.code]

/-- The event record of a delivered event (R182). -/
def Delivered.bytes (d : Delivered) : List Byte :=
  u16Bytes d.sequence ++ [byteOf d.event.kind, d.lostBefore, byteOf d.event.body.length] ++ d.event.body

/-! ## The probe (10.7) -/

/-- The PROBE-RESULT response (R152). -/
def probeResultBytes (q : ProbeRequest) (code : ProbeCode) (data : List Beat) : List Byte :=
  accessCode q.access :: u32Bytes q.address ++ [byteOf q.beats, code.code]
    ++ (match q.access with
        | .read => data.flatMap beatBytes
        | .write => [])

end Sys2Proof.Machine
end

