-- ==== Sys2Proof/Machine/Ops.lean ====
section
/-! DEFINITION. The shared operations of the blocks: passage at a gate (R52 to R55), the hold timer
(R70), event placement and refill (R105, R115), answering and withdrawing records (R15, R64), the probe's
completion (R151), the offer of a response (R20), and the service link's response (R165). Every command's
meaning is written over these. -/

namespace Sys2Proof.Machine

/-! ## Lists -/

/-- The first element that passes the test, and the list without it. -/
def takeFirst {α : Type} (p : α → Bool) : List α → Option (α × List α)
  | [] => none
  | x :: xs =>
    if p x then some (x, xs)
    else
      match takeFirst p xs with
      | some (y, ys) => some (y, x :: ys)
      | none => none

/-- Changes the first element that passes the test. -/
def onFirst {α : Type} (p : α → Bool) (f : α → α) : List α → List α
  | [] => []
  | x :: xs => if p x then f x :: xs else x :: onFirst p f xs

/-- Changes the head of a tag: the first GATED record of its list (R9). -/
def onHead (f : TransitRecord → TransitRecord) (l : List TransitRecord) : List TransitRecord :=
  onFirst (·.isGated) f l

/-! ## Parts of the state -/

/-- The state with a tag's list of records replaced. -/
def State.setRecords (s : State) (tag : Tag) (l : List TransitRecord) : State :=
  { s with records := s.records.set tag l }

/-- The state with a tag's gate context replaced. -/
def State.setGate (s : State) (tag : Tag) (g : Gate) : State :=
  { s with gates := s.gates.set tag g }

/-- The state with a watch entry replaced. -/
def State.setEntry (s : State) (index : WatchIndex) (e : WatchEntry) : State :=
  { s with entries := s.entries.set index e }

/-- The state with a memory slot replaced. -/
def State.setSlot (s : State) (slot : SlotIndex) (v : Slot) : State :=
  { s with slots := s.slots.set slot v }

/-! ## The hold timer -/

/-- The hold timer runs only while the gate is CLOSED with a GATED record behind it and a non-zero limit.
It starts from the limit when that becomes true, runs on while it stays true, and is stopped and
discarded when it becomes false (R70). -/
def Gate.settleTimer (g : Gate) (gatedBehind : Bool) : Gate :=
  if g.state.isClosed && gatedBehind && g.limit != 0 then
    match g.timer with
    | some _ => g
    | none => { g with timer := some (g.limit.toNat * Config.holdUnit) }
  else { g with timer := none }

/-- The hold timer of a tag follows its gate and its GATED records. -/
def State.settleTimer (s : State) (tag : Tag) : State :=
  s.setGate tag (s.gates[tag].settleTimer (hasGated s.records[tag]))

/-- The gate leaves CLOSED: its state changes and its hold timer is stopped and discarded (R70). -/
def Gate.leaveClosed (g : Gate) (state : GateState) : Gate := { g with state := state, timer := none }

/-! ## Passage at the head (03, 3.2) -/

/-- The gate state directly behind a record that has passed: one step fewer, or CLOSED with STEP-DONE at
the last step (R54); CLOSED with WATCH-AFTER behind a HOLD-AFTER record whatever the steps (R55). -/
def GateState.afterPassage (g : GateState) (r : TransitRecord) : GateState :=
  if r.decision == .holdAfter then .closed .watchAfter
  else
    match g with
    | .stepping n => if n.toNat ≤ 1 then .closed .stepDone else .stepping (n - 1)
    | other => other

/-- The consideration of the head and every passage that follows from it (R52, R53), along the tag's list
from its old end: a stalled head waits, an unspent HOLD-BEFORE closes an open or stepping gate with
WATCH-BEFORE, a head at an open or stepping gate passes and the next one is considered, and a head at a
closed gate waits. -/
def passRun : GateState → List TransitRecord → GateState × List TransitRecord
  | g, [] => (g, [])
  | g, r :: rs =>
    if r.isGated then
      if r.stalled || g.isClosed then (g, r :: rs)
      else if r.holdsBefore then (.closed .watchBefore, r :: rs)
      else
        let rest := passRun (g.afterPassage r) rs
        (rest.1, { r with phase := .ready } :: rest.2)
    else
      let rest := passRun g rs
      (rest.1, r :: rest.2)

/-- The gate unit considers the head of a tag (R52); the hold timer then follows (R70). -/
def State.consider (s : State) (tag : Tag) : State :=
  let run := passRun s.gates[tag].state s.records[tag]
  ((s.setRecords tag run.2).setGate tag { s.gates[tag] with state := run.1 }).settleTimer tag

/-- The head's hold spent becomes yes (R56). -/
def State.spendHead (s : State) (tag : Tag) : State :=
  s.setRecords tag (onHead (fun r => { r with spent := true }) s.records[tag])

/-- The gate leaves CLOSED for `state`, and the head is considered (R52, R61, R62, R72). -/
def State.openGate (s : State) (tag : Tag) (state : GateState) : State :=
  (s.setGate tag (s.gates[tag].leaveClosed state)).consider tag

/-! ## Answering records -/

/-- The record becomes ANSWERED with a code; a READ's data is `values` for each beat, zero for each that
is not supplied (R15, R16). -/
def TransitRecord.answeredWith (r : TransitRecord) (code : AnswerCode) (values : List Beat) : TransitRecord :=
  { r with phase := .answered ⟨code, answerData r.access r.beats.toNat values⟩ }

/-- Every GATED record of a list becomes ANSWERED with code WITHDRAWN (R64). -/
def withdrawGated (l : List TransitRecord) : List TransitRecord :=
  l.map fun r => if r.isGated then r.answeredWith .withdrawn [] else r

/-- Every GATED record of a tag is withdrawn and the gate is set to `state`; with no GATED record left the
hold timer stops (R64, R73). -/
def State.withdraw (s : State) (tag : Tag) (state : GateState) : State :=
  ((s.setRecords tag (withdrawGated s.records[tag])).setGate tag
    { s.gates[tag] with state := state }).settleTimer tag

/-- The record that was issued through a slot becomes ANSWERED (R87, R92). -/
def State.answerRecord (s : State) (tag : Tag) (slot : SlotIndex) (code : AnswerCode)
    (values : List Beat) : State :=
  s.setRecords tag (s.records[tag].map fun r =>
    if r.inSlot slot then r.answeredWith code values else r)

/-! ## Events (05) -/

/-- The tag an event carries (05, 5.2). -/
def Event.tag? : Event → Option Tag
  | .watch t _ => some t.tag
  | .watchRead t _ => some t.tag
  | .holdExpired tag _ _ _ => some tag
  | .noAnswer t => some t.tag
  | .malformed t => some t.tag
  | .targetReset => none
  | .probeDone _ => none

/-- The fired list an event carries. -/
def Event.firedList? : Event → Option (List WatchIndex)
  | .watch _ f => some f.fired
  | .watchRead _ f => some f.fired
  | _ => none

/-- The selector matches the event (R127): its kind is named; it carries no tag or a named one; and a
WATCH or WATCH-READ event meets an empty watches set or one that shares an index with its fired list. -/
def Selector.accepts (sel : Selector) (e : Event) : Bool :=
  sel.kinds.getLsbD e.kind
    && (match e.tag? with
        | some tag => sel.tags.getLsbD tag.val
        | none => true)
    && (match e.firedList? with
        | some fired => sel.watches == 0 || fired.any fun i => sel.watches.getLsbD i.val
        | none => true)

/-- The lost counter raised by `n`, saturating at 255 (R107). -/
def lostPlus (lost : Byte) (n : Nat) : Byte := byteOf (min 255 (lost.toNat + n))

/-- The event as it is delivered now: with the sequence counter's and the lost counter's values (R106). -/
def State.stamp (s : State) (e : Event) : Delivered := ⟨s.sequence, s.lost, e⟩

/-- The counters after a delivery: the sequence counter one further, the lost counter 0 (R106). -/
def State.delivered (s : State) : State := { s with sequence := s.sequence + 1, lost := 0 }

/-- Delivery to the young end of the store. -/
def State.deliverToStore (s : State) (e : Event) : State :=
  { s.delivered with store := s.store ++ [s.stamp e] }

/-- Delivery to a wait, which becomes COMPLETE at the young end of the completion order (R126, R134). -/
def State.deliverToWait (s : State) (e : Event) (handle : Byte) (selector : Selector) : State :=
  { s.delivered with waitsComplete := s.waitsComplete ++ [CompleteWait.mk handle selector (s.stamp e)] }

/-- Sets or clears the stall mark of a linked record (R17). -/
def State.markStall (s : State) (link : RecordLink) (stalled : Bool) : State :=
  s.setRecords link.tag (s.records[link.tag].map fun r =>
    if r.id = link.id then { r with stalled := stalled } else r)

/-- The placement of a newly produced event (R105): the first PENDING wait that matches takes it, else
the store if it has room, else a lossless event (one with a link to its record) is stalled with its
record, else it is dropped and counted. -/
def State.place (s : State) (e : Event) (lossless : Option RecordLink) : State :=
  match takeFirst (fun w => w.selector.accepts e) s.waitsPending with
  | some (w, rest) => { s with waitsPending := rest }.deliverToWait e w.handle w.selector
  | none =>
    if s.store.length < Config.storeCapacity then s.deliverToStore e
    else
      match lossless with
      | some link => { s with stalls := s.stalls ++ [Stalled.mk e link] }.markStall link true
      | none => { s with lost := lostPlus s.lost 1 }

/-- The event of a stalled record has been delivered: its stall mark is cleared and the record proceeds,
with the head of its tag considered for passage (R116). -/
def State.unstall (s : State) (link : RecordLink) : State :=
  (s.markStall link false).consider link.tag

/-- The refill of the store from the stall list, at most `fuel` moves (R115). -/
def refillFuel : Nat → State → State
  | 0, s => s
  | fuel + 1, s =>
    match s.stalls with
    | [] => s
    | e :: rest =>
      if s.store.length < Config.storeCapacity then
        refillFuel fuel (({ s with stalls := rest }.deliverToStore e.event).unstall e.link)
      else s

/-- While the store has room and the stall list is not empty, the oldest stalled event is delivered to the
store and its record unstalled (R115, R116). -/
def State.refill (s : State) : State := refillFuel s.stalls.length s

/-! ## The probe -/

/-- A probe in flight becomes DONE with a result, a READ's data being `values` for each beat, and its
PROBE-DONE event is placed (R151, R155). -/
def State.finishProbe (s : State) (code : ProbeCode) (values : List Beat) : State :=
  match s.probe with
  | .queued q =>
    { s with probe := .done q code (answerData q.access q.beats values) }.place (.probeDone code) none
  | .atMemory q =>
    { s with probe := .done q code (answerData q.access q.beats values) }.place (.probeDone code) none
  | _ => s

/-! ## The response channel -/

/-- When the channel holds no offered response, it offers the deliverable response of the first tag in
the rotation after the tag last taken (R20). -/
def State.offerNext (s : State) : State :=
  match s.offer with
  | some _ => s
  | none => { s with offer := s.responseOrder.find? fun tag => (s.deliverable tag).isSome }

/-! ## The service link -/

/-- A request period with the complete bytes `bytes` ends: they are kept in the request buffer and
counted, LDO sent 0FFh for each of them (R159), and `held` is the new held response (R165). -/
def State.endPeriod (s : State) (bytes : List Byte) (held : HeldResponse) : State :=
  { s with
    requestBuffer := bytes.take Config.requestBufferSize
    requestCount := bytes.length
    ldo := List.replicate bytes.length 0xFF
    held := held }

/-! ## Taking a command -/

/-- While power-on is in progress or CLK is stopped the part takes no event: an offered request waits, and an
answer is lost (R177, R178). -/
def State.whenTakingEvents (s : State) (f : State → State) : Result :=
  .next (if s.takesEvents then f s else s)

/-- Nor does the link take a chip-select period then, or while LCS_N is still low, for instance since power was
applied (R172, R177, R178). -/
def State.whenTakingPeriods (s : State) (f : State → State) : Result :=
  .next (if s.takesPeriods then f s else s)

/-- A request that passed the link's checks is taken by its owning block at the end of its frame (R163),
and its response is held, PREPARING (R165). -/
def State.request (s : State) (bytes : List Byte) (act : State → State × Reply) : Result :=
  s.whenTakingPeriods fun s => (act s).1.endPeriod bytes (.preparing (act s).2.frame)

/-- A request that names a tag: a tag above 7 is refused with BAD-INDEX before any other check (R59). -/
def withTag (tag : Byte) (act : Tag → State → State × Reply) (s : State) : State × Reply :=
  match tagOf tag with
  | some t => act t s
  | none => (s, .refuse .badIndex)

/-- A request that names a watch entry: an index above 15 is refused with BAD-INDEX (R27, R30, R47). -/
def withEntry (index : Byte) (act : WatchIndex → State → State × Reply) (s : State) : State × Reply :=
  match watchOf index with
  | some i => act i s
  | none => (s, .refuse .badIndex)

end Sys2Proof.Machine
end

