-- ==== Sys2Proof/Machine/Gates.lean ====
section
/-! DEFINITION. The gate unit: the requests of chapter 3 (R59 to R71, R76) and HOLD_TIMER_EXPIRY
(R72 to R74). -/

namespace Sys2Proof.Machine

/-! ## Freezing, resuming and stepping -/

/-- TAG-READ returns the gate context and the counts of the tag's records in each phase (R76). -/
def tagReadAct (tag : Tag) (s : State) : State × Reply :=
  (s, .ok (tagReadBytes tag s.gates[tag] s.records[tag]))

/-- TAG_READ (R76). -/
def execTagRead (tag : Byte) (s : State) : Result :=
  s.request (Instr.period (.tagRead tag)) (withTag tag tagReadAct)

/-- TAG-FREEZE makes the gate CLOSED with cause FREEZE from any state; a running timer runs on (R60). -/
def tagFreezeAct (tag : Tag) (s : State) : State × Reply :=
  ((s.setGate tag { s.gates[tag] with state := .closed .freeze }).settleTimer tag, .ok [])

/-- TAG_FREEZE (R60). -/
def execTagFreeze (tag : Byte) (s : State) : Result :=
  s.request (Instr.period (.tagFreeze tag)) (withTag tag tagFreezeAct)

/-- A release of a gate: the head's hold is spent first if the close cause is WATCH-BEFORE, then the gate
takes its new state and the head is considered (R56, R61, R62, R63). -/
def State.release (s : State) (tag : Tag) (state : GateState) : State :=
  (if s.gates[tag].state = .closed .watchBefore then s.spendHead tag else s).openGate tag state

/-- TAG-RESUME makes the gate OPEN; on an OPEN gate it changes nothing (R61). -/
def tagResumeAct (tag : Tag) (s : State) : State × Reply :=
  (if s.gates[tag].state = .opened then s else s.release tag .opened, .ok [])

/-- TAG_RESUME (R61). -/
def execTagResume (tag : Byte) (s : State) : Result :=
  s.request (Instr.period (.tagResume tag)) (withTag tag tagResumeAct)

/-- TAG-STEP makes the gate STEPPING with `n` steps remaining, from any state; an `n` of 0 is refused
(R62). -/
def tagStepAct (n : BitVec 16) (tag : Tag) (s : State) : State × Reply :=
  if n = 0 then (s, .refuse .badValue) else (s.release tag (.stepping n), .ok [])

/-- TAG_STEP (R62). -/
def execTagStep (tag : Byte) (n : BitVec 16) (s : State) : Result :=
  s.request (Instr.period (.tagStep tag n)) (withTag tag (tagStepAct n))

/-! ## Withdrawing -/

/-- TAG-WITHDRAW answers every GATED record WITHDRAWN, sets the gate as `after` says and reports the number
of records withdrawn (R64). -/
def tagWithdrawAct (after : Byte) (tag : Tag) (s : State) : State × Reply :=
  match afterOf after with
  | none => (s, .refuse .badValue)
  | some state => ((s.withdraw tag state).offerNext, .ok [countByte (·.isGated) s.records[tag]])

/-- TAG_WITHDRAW (R64). -/
def execTagWithdraw (tag : Byte) (after : Byte) (s : State) : Result :=
  s.request (Instr.period (.tagWithdraw tag after)) (withTag tag (tagWithdrawAct after))

/-! ## The hold limit -/

/-- TAG-LIMIT sets the hold limit and expiry policy; a running timer restarts from the new limit or stops,
and a stopped one starts if its condition holds (R71). -/
def tagLimitAct (limit : BitVec 16) (policy : Byte) (tag : Tag) (s : State) : State × Reply :=
  match policyOf policy with
  | none => (s, .refuse .badValue)
  | some p =>
    ((s.setGate tag { s.gates[tag] with limit := limit, policy := p, timer := none }).settleTimer tag, .ok [])

/-- TAG_LIMIT (R71). -/
def execTagLimit (tag : Byte) (limit : BitVec 16) (policy : Byte) (s : State) : Result :=
  s.request (Instr.period (.tagLimit tag limit policy)) (withTag tag (tagLimitAct limit policy))

/-! ## Working on the held head -/

/-- HELD-LIST returns the gate context and every record of the tag, oldest first (R66). -/
def heldListAct (tag : Tag) (s : State) : State × Reply :=
  (s, .ok (heldListBytes tag s.gates[tag] s.records[tag]))

/-- HELD_LIST (R66). -/
def execHeldList (tag : Byte) (s : State) : Result :=
  s.request (Instr.period (.heldList tag)) (withTag tag heldListAct)

/-- The record that waits at the front of a CLOSED gate, if there is one. -/
def State.heldHead (s : State) (tag : Tag) : Option TransitRecord :=
  if s.gates[tag].state.isClosed then headOf s.records[tag] else none

/-- One beat of a record's write data and byte enables replaced (R67). -/
def TransitRecord.patched (r : TransitRecord) (beat : Nat) (w : WriteBeat) : TransitRecord :=
  { r with writeData := r.writeData.set beat w }

/-- HELD-PATCH: the checks of R67 in their order, then one beat of the head replaced whole. -/
def heldPatchAct (beat : Byte) (w : WriteBeat) (tag : Tag) (s : State) : State × Reply :=
  match s.heldHead tag with
  | none => (s, .refuse .badState)
  | some r =>
    if r.access = .read then (s, .refuse .badState)
    else if r.beats.toNat ≤ beat.toNat then (s, .refuse .badIndex)
    else if w.enables = 0 then (s, .refuse .badValue)
    else (s.setRecords tag (onHead (·.patched beat.toNat w) s.records[tag]), .ok [])

/-- HELD_PATCH (R67). -/
def execHeldPatch (tag beat : Byte) (data : Beat) (enables : Byte) (s : State) : Result :=
  s.request (Instr.period (.heldPatch tag beat data enables))
    (withTag tag (heldPatchAct beat ⟨data, enables⟩))

/-- The gate state after its head was answered in place of memory: a WATCH-BEFORE close becomes FREEZE,
since the record that closed the gate has left it (R69). -/
def GateState.afterHeldAnswer (g : GateState) : GateState :=
  if g = .closed .watchBefore then .closed .freeze else g

/-- HELD-ANSWER answers the head of a CLOSED gate DONE in place of memory (R68, R69). -/
def heldAnswerAct (values : List Beat) (tag : Tag) (s : State) : State × Reply :=
  match s.heldHead tag with
  | none => (s, .refuse .badState)
  | some _ =>
    ((((s.setRecords tag (onHead (·.answeredWith .done values) s.records[tag])).setGate tag
        { s.gates[tag] with state := s.gates[tag].state.afterHeldAnswer }).settleTimer tag).offerNext, .ok [])

/-- HELD_ANSWER (R68). -/
def execHeldAnswer (tag : Byte) (values : List Beat) (s : State) : Result :=
  s.request (Instr.period (.heldAnswer tag values)) (withTag tag (heldAnswerAct values))

/-! ## Expiry of the hold timer -/

/-- A head that carries an unspent HOLD-BEFORE has it spent (R56, R72). -/
def State.spendHold (s : State) (tag : Tag) : State :=
  s.setRecords tag (onHead (fun r => if r.holdsBefore then { r with spent := true } else r) s.records[tag])

/-- An expiry with policy PASS: the gate opens past the head's hold, and the lossy HOLD-EXPIRED event is
placed (R72, R74). -/
def State.expirePass (s : State) (tag : Tag) (cause : CloseCause) : State :=
  ((s.spendHold tag).openGate tag .opened).place (.holdExpired tag cause .pass 0) none

/-- An expiry with policy WITHDRAW: every GATED record is withdrawn, the gate opens, and the lossy
HOLD-EXPIRED event is placed (R73, R74). -/
def State.expireWithdraw (s : State) (tag : Tag) (cause : CloseCause) : State :=
  ((s.withdraw tag .opened).place
    (.holdExpired tag cause .withdraw (s.records[tag].filter (·.isGated)).length) none).offerNext

/-- The running hold timer of a CLOSED gate expires by its policy; a stopped one does not (R70, R72). -/
def State.expireHold (tag : Tag) (s : State) : State :=
  match s.gates[tag].timer, s.gates[tag].state with
  | some _, .closed cause =>
    match s.gates[tag].policy with
    | .pass => s.expirePass tag cause
    | .withdraw => s.expireWithdraw tag cause
  | _, _ => s

/-- HOLD_TIMER_EXPIRY (R72). -/
def execHoldTimerExpiry (tag : Tag) (s : State) : Result := s.whenTakingEvents (State.expireHold tag)

end Sys2Proof.Machine
end

