-- ==== Sys2Proof/Machine/Matching.lean ====
section
/-! DEFINITION. The judgement of transactions by the watch table: overlap (R34), the data test (R35, R42),
matches (R33, R42), latches, skips and firings (R36, R37), arming (R37), and the decision, fired list and
events that an evaluation hands on (R38 to R40, R43, R44). -/

namespace Sys2Proof.Machine

/-! ## Bytes of a transaction -/

/-- The address of byte `k` of beat `b` of a transaction (01, 1.1), as a number. -/
def byteAddress (address : Addr) (b k : Nat) : Nat := address.toNat + 8 * b + k

/-- The address lies between base and limit inclusive. -/
def Definition.covers (d : Definition) (a : Nat) : Bool := d.base.toNat ≤ a && a ≤ d.limit.toNat

/-- Some byte of beat `b` that is enabled lies in the range (R34; R35 condition (a)). -/
def Definition.coversEnabled (d : Definition) (address : Addr) (b : Nat) (enables : Byte) : Bool :=
  [0, 1, 2, 3, 4, 5, 6, 7].any fun k => enables.getLsbD k && d.covers (byteAddress address b k)

/-- The data of a beat with every byte that is not enabled taken as 00h (R35 condition (b)). -/
def enabledData (w : WriteBeat) : Beat :=
  [0, 1, 2, 3, 4, 5, 6, 7].foldl
    (fun acc k => if w.enables.getLsbD k then acc ||| (w.data &&& (0xFF#64 <<< (8 * k))) else acc) 0

/-- The beat's data agrees with the qualifier's value wherever its mask selects (R35 condition (b)). -/
def qualifierAgrees (q : Qualifier) (data : Beat) : Bool := data &&& q.mask == q.value &&& q.mask

/-- The transaction's bytes overlap the range (R34): any byte of a READ, any enabled byte of a WRITE. -/
def Definition.overlaps (d : Definition) (r : TransitRecord) : Bool :=
  match r.access with
  | .read =>
    1 ≤ r.beats.toNat && r.address.toNat ≤ d.limit.toNat
      && d.base.toNat ≤ byteAddress r.address (r.beats.toNat - 1) 7
  | .write => r.writeData.zipIdx.any fun (w, b) => d.coversEnabled r.address b w.enables

/-- The lowest-numbered beat of a WRITE, from beat `b` on, that passes the data test (R35). -/
def writeMatch (d : Definition) (q : Qualifier) (address : Addr) : Nat → List WriteBeat → Option MatchedBeat
  | _, [] => none
  | b, w :: ws =>
    if d.coversEnabled address b w.enables && qualifierAgrees q (enabledData w) then some ⟨b, enabledData w⟩
    else writeMatch d q address (b + 1) ws

/-- The lowest-numbered beat of returned data, from beat `b` on, that passes the data test: any of its 8
bytes in the range, and all 8 bytes as returned compared (R42). -/
def readMatch (d : Definition) (q : Qualifier) (address : Addr) : Nat → List Beat → Option MatchedBeat
  | _, [] => none
  | b, v :: vs =>
    if d.coversEnabled address b 0xFF && qualifierAgrees q v then some ⟨b, v⟩
    else readMatch d q address (b + 1) vs

/-! ## Matches -/

/-- The transaction's privilege passes the filter (R33). -/
def PrivilegeFilter.passes : PrivilegeFilter → Privilege → Bool
  | .any, _ => true
  | .user, p => p == .user
  | .supervisor, p => p == .supervisor

/-- The access agrees (R33). -/
def AccessFilter.agrees : AccessFilter → Access → Bool
  | .either, _ => true
  | .read, a => a == .read
  | .write, a => a == .write

/-- An entry's judgement of a transaction: no match, or a match, with the matched beat of a
data-qualified entry. -/
inductive Judgement where
  | noMatch
  | hit (matched : Option MatchedBeat)
deriving DecidableEq, Repr

/-- The match of a data-qualified entry: the beat that passed the data test, if one did. -/
def Judgement.ofBeat : Option MatchedBeat → Judgement
  | some m => .hit (some m)
  | none => .noMatch

/-- The entry is LIVE and its tag set and privilege filter pass the record (R29, R33 points 1 to 3). -/
def WatchEntry.admits (e : WatchEntry) (tag : Tag) (r : TransitRecord) : Bool :=
  e.state == .live && e.definition.tags.getLsbD tag.val && e.definition.privilege.passes r.privilege

/-- The judgement at request phase (R33). A data-qualified READ entry is not judged here. -/
def WatchEntry.judgeRequest (tag : Tag) (r : TransitRecord) (e : WatchEntry) : Judgement :=
  if e.admits tag r && e.definition.access.agrees r.access && e.definition.overlaps r then
    match e.definition.qualifier with
    | none => .hit none
    | some q =>
      if e.definition.access == .write then
        .ofBeat (writeMatch e.definition q r.address 0 r.writeData)
      else .noMatch
  else .noMatch

/-- The judgement at response phase of the data returned for a READ record (R41, R42). -/
def WatchEntry.judgeResponse (tag : Tag) (r : TransitRecord) (data : List Beat) (e : WatchEntry) :
    Judgement :=
  if e.admits tag r && e.definition.access == .read then
    match e.definition.qualifier with
    | some q => .ofBeat (readMatch e.definition q r.address 0 data)
    | none => .noMatch
  else .noMatch

/-! ## From match to fire -/

/-- The entry fires on this judgement: it matched with no skips left (R37). -/
def WatchEntry.firesOn (e : WatchEntry) (j : Judgement) : Bool :=
  match j with
  | .noMatch => false
  | .hit _ => e.skips == 0

/-- The entry after its own judgement: the latch is written on a match (R36); a skip is used up, or the
fire count rises, staying at 65535, and a once-entry becomes SPENT (R37). -/
def WatchEntry.afterJudgement (e : WatchEntry) (t : Transaction) (j : Judgement) : WatchEntry :=
  match j with
  | .noMatch => e
  | .hit matched =>
    if e.skips == 0 then
      { e with
        latch := some ⟨t, matched⟩
        fires := if e.fires = 0xFFFF then e.fires else e.fires + 1
        state := if e.definition.once then .spent else e.state }
    else { e with latch := some ⟨t, matched⟩, skips := e.skips - 1 }

/-- The indices of the entries that fire in an evaluation, ascending (R38). -/
def firedList (entries : Vector WatchEntry 16) (judge : WatchEntry → Judgement) : List WatchIndex :=
  allWatches.filter fun i => entries[i].firesOn (judge entries[i])

/-- The entry is armed by a firing of this evaluation: it was DORMANT and a fired entry names it (R37). -/
def armedBy (entries : Vector WatchEntry 16) (fired : List WatchIndex) (i : WatchIndex) : Bool :=
  entries[i].state == .dormant && fired.any fun j => entries[j].definition.arms == some i

/-- The watch table after an evaluation. Every entry is judged against the states as the evaluation finds
them (R32), and an entry armed by it becomes LIVE with its counters and latch as they were (R37). -/
def evaluateEntries (entries : Vector WatchEntry 16) (judge : WatchEntry → Judgement)
    (t : Transaction) : Vector WatchEntry 16 :=
  let fired := firedList entries judge
  Vector.ofFn fun i =>
    if armedBy entries fired i then { entries[i] with state := .live }
    else entries[i].afterJudgement t (judge entries[i])

/-! ## What an evaluation hands on -/

/-- Some fired entry has the action. -/
def anyAction (entries : Vector WatchEntry 16) (fired : List WatchIndex) (a : Action) : Bool :=
  fired.any fun i => entries[i].definition.action == a

/-- The strongest action among the fired entries, in the order REFUSE, HOLD-BEFORE, HOLD-AFTER, NOTE;
NONE with an empty fired list (R38). -/
def decisionOf (entries : Vector WatchEntry 16) (fired : List WatchIndex) : Decision :=
  if anyAction entries fired .refuse then .refuse
  else if anyAction entries fired .holdBefore then .holdBefore
  else if anyAction entries fired .holdAfter then .holdAfter
  else if anyAction entries fired .note then .note
  else .none

/-- Some fired entry has report LOSSY or LOSSLESS, so an event is produced (R39, R44). -/
def reports (entries : Vector WatchEntry 16) (fired : List WatchIndex) : Bool :=
  fired.any fun i => entries[i].definition.report != .none

/-- Some fired entry has report LOSSLESS, so the event is lossless (R39, R44). -/
def reportsLossless (entries : Vector WatchEntry 16) (fired : List WatchIndex) : Bool :=
  fired.any fun i => entries[i].definition.report == .lossless

/-- The matched beat of a judgement. -/
def Judgement.beat? : Judgement → Option MatchedBeat
  | .noMatch => none
  | .hit matched => matched

/-- The matched beat an event carries: that of the lowest-indexed data-qualified entry in the fired list
(R40, R44). -/
def eventBeat (entries : Vector WatchEntry 16) (judge : WatchEntry → Judgement)
    (fired : List WatchIndex) : Option MatchedBeat :=
  match fired.find? fun i => entries[i].definition.qualifier.isSome with
  | some i => (judge entries[i]).beat?
  | none => none

/-- The action applied that a decision of a fired evaluation shows in a WATCH event (R40). -/
def Decision.applied : Decision → Action
  | .refuse => .refuse
  | .holdBefore => .holdBefore
  | .holdAfter => .holdAfter
  | _ => .note

/-- Gate closed in an event: the action applied is HOLD-BEFORE or HOLD-AFTER (R40, R44). -/
def Action.closesGate (a : Action) : Bool := a == .holdBefore || a == .holdAfter

/-- What a WATCH or WATCH-READ event carries from an evaluation whose action applied is `a`. -/
def firingOf (entries : Vector WatchEntry 16) (judge : WatchEntry → Judgement) (a : Action) : Firing where
  fired := firedList entries judge
  action := a
  gateClosed := a.closesGate
  matched := eventBeat entries judge (firedList entries judge)

end Sys2Proof.Machine
end

