-- ==== Sys2Proof/Machine/MemoryPort.lean ====
section
/-! DEFINITION. The memory port: GRANT (R83, R85), ANSWER (R87 to R90, R41 to R44, R57),
RESPONSE_TIMER_EXPIRY (R92, R93) and SET_RESPONSE_LIMIT (R97). -/

namespace Sys2Proof.Machine

/-! ## Grants -/

/-- A slot's response timer at its grant: running from a non-zero limit, stopped for 0 (R85). -/
def startTimer (limit : BitVec 16) : Option Nat := if limit = 0 then none else some limit.toNat

/-- A grant to a tag: its oldest READY record is issued through the slot and becomes AT-MEMORY (R85). -/
def State.grantRecord (s : State) (slot : SlotIndex) (tag : Tag) : State :=
  match s.records[tag].find? (·.isReady) with
  | none => s
  | some r =>
    { (s.setRecords tag (onFirst (·.isReady) (fun r => { r with phase := .atMemory slot }) s.records[tag])).setSlot
        slot (.busy (.record tag) r.access r.beats.toNat s.responseLimit (startTimer s.responseLimit)) with
      memoryRequest := some ⟨slot, r.access, r.address, r.beats.toNat, r.writeData⟩ }

/-- A grant to the probe: it is issued through the slot and becomes AT-MEMORY (R85, R148). -/
def State.grantProbe (s : State) (slot : SlotIndex) : State :=
  match s.probe with
  | .queued q =>
    { s.setSlot slot (.busy .probe q.access q.beats s.responseLimit (startTimer s.responseLimit)) with
      probe := .atMemory q
      memoryRequest := some ⟨slot, q.access, q.address, q.beats, q.writeData⟩ }
  | _ => s

/-- One grant: the next contender in the ring gets the lowest-numbered FREE slot, and the arbiter position
becomes its place; without a FREE slot or a contender no grant is made (R83). -/
def State.grantNext (s : State) : State :=
  match s.freeSlot, s.nextContender with
  | some slot, some c =>
    let s := { s with arbiter := c }
    match contenderTag c with
    | some tag => s.grantRecord slot tag
    | none => s.grantProbe slot
  | _, _ => s

/-- GRANT (R83). -/
def execGrant (s : State) : Result := s.whenTakingEvents State.grantNext

/-! ## Answers -/

/-- A response-phase HOLD-AFTER firing closes an OPEN or STEPPING gate with cause WATCH-READ; a CLOSED gate
keeps its cause (R57). The hold timer follows (R70). -/
def State.closeForRead (s : State) (tag : Tag) : State :=
  if s.gates[tag].state.isClosed then s
  else (s.setGate tag { s.gates[tag] with state := .closed .watchRead }).settleTimer tag

/-- The action applied of a response-phase evaluation (R44). -/
def responseAction (entries : Vector WatchEntry 16) (fired : List WatchIndex) : Action :=
  if anyAction entries fired .holdAfter then .holdAfter else .note

/-- The response-phase evaluation of the data returned for a READ record (R41 to R44): the entries after
it, the gate closed by a HOLD-AFTER firing, and its WATCH-READ event placed. -/
def State.judgeResponse (s : State) (tag : Tag) (r : TransitRecord) (data : List Beat) : State :=
  let judge := WatchEntry.judgeResponse tag r data
  let fired := firedList s.entries judge
  let action := responseAction s.entries fired
  let judged := { s with entries := evaluateEntries s.entries judge (r.transaction tag) }
  let gated := if action = .holdAfter then judged.closeForRead tag else judged
  if reports s.entries fired then
    gated.place (.watchRead (r.transaction tag) (firingOf s.entries judge action))
      (if reportsLossless s.entries fired then some ⟨tag, r.id⟩ else none)
  else gated

/-- The answer code that a memory answer gives a record (R87). -/
def memoryAnswerCode : MemoryCode → AnswerCode
  | .ok => .done
  | .error => .memoryError

/-- The result code that a memory answer gives the probe (R89). -/
def memoryProbeCode : MemoryCode → ProbeCode
  | .ok => .done
  | .error => .memoryError

/-- The data an answer brings: none with an ERROR answer (R87, R89). -/
def memoryValues (code : MemoryCode) (data : List Beat) : List Beat :=
  match code with
  | .ok => data
  | .error => []

/-- An answer to a BUSY slot whose occupant is a record (R87, R88). -/
def State.answerForRecord (s : State) (slot : SlotIndex) (tag : Tag) (access : Access) (beats : Nat)
    (code : MemoryCode) (data : List Beat) : State :=
  let values := answerData access beats (memoryValues code data)
  let freed := s.setSlot slot .free
  match s.records[tag].find? (·.inSlot slot) with
  | none => freed
  | some r =>
    let answered := freed.answerRecord tag slot (memoryAnswerCode code) values
    if code = .ok ∧ access = .read then (answered.judgeResponse tag r values).offerNext
    else answered.offerNext

/-- An answer, judged by the state of the slot it names: it answers the occupant of a BUSY slot and frees
the slot, it frees a LINGERING slot and is discarded, and at a FREE slot it is ignored (R87, R89, R90). -/
def State.takeAnswer (slot : SlotIndex) (code : MemoryCode) (data : List Beat) (s : State) : State :=
  match s.slots[slot] with
  | .free => s
  | .lingering => s.setSlot slot .free
  | .busy .probe _ _ _ _ =>
    (s.setSlot slot .free).finishProbe (memoryProbeCode code) (memoryValues code data)
  | .busy (.record tag) access beats _ _ => s.answerForRecord slot tag access beats code data

/-- ANSWER (R87). -/
def execAnswer (slot : SlotIndex) (code : MemoryCode) (data : List Beat) (s : State) : Result :=
  s.whenTakingEvents (State.takeAnswer slot code data)

/-! ## The response limit -/

/-- The response timer of a record's slot expires: the record is answered NO-ANSWER, the slot becomes
LINGERING and a lossy NO-ANSWER event is placed (R92). -/
def State.expireRecord (s : State) (slot : SlotIndex) (tag : Tag) : State :=
  let lingering := s.setSlot slot .lingering
  match s.records[tag].find? (·.inSlot slot) with
  | none => lingering
  | some r =>
    ((lingering.answerRecord tag slot .noAnswer []).place (.noAnswer (r.transaction tag)) none).offerNext

/-- A running response timer expires (R92, R93); a stopped one does not (R91). -/
def State.expireResponse (slot : SlotIndex) (s : State) : State :=
  match s.slots[slot] with
  | .busy .probe _ _ _ (some _) => (s.setSlot slot .lingering).finishProbe .noAnswer []
  | .busy (.record tag) _ _ _ (some _) => s.expireRecord slot tag
  | _ => s

/-- RESPONSE_TIMER_EXPIRY (R92). -/
def execResponseTimerExpiry (slot : SlotIndex) (s : State) : Result :=
  s.whenTakingEvents (State.expireResponse slot)

/-- SET-RESPONSE-LIMIT sets the limit of later grants and reports it with the slot counts (R97). -/
def setResponseLimitAct (limit : BitVec 16) (s : State) : State × Reply :=
  ({ s with responseLimit := limit },
    .ok (u16Bytes limit ++ [byteOf s.busySlots, byteOf s.lingeringSlots]))

/-- SET_RESPONSE_LIMIT (R97). -/
def execSetResponseLimit (limit : BitVec 16) (s : State) : Result :=
  s.request (Instr.period (.setResponseLimit limit)) (setResponseLimitAct limit)

end Sys2Proof.Machine
end

