-- ==== Sys2Proof/Machine/Events.lean ====
section
/-! DEFINITION. The requests of the event unit: EVENT_TAKE (R110), EVENT_STATUS (R111) and
EVENT_DISCARD (R112). -/

namespace Sys2Proof.Machine

/-- EVENT-TAKE returns the oldest stored event and refills the store (R110). -/
def eventTakeAct (s : State) : State × Reply :=
  match s.store with
  | [] => (s, .refuse .empty)
  | d :: rest => (({ s with store := rest }.refill).offerNext, .ok d.bytes)

/-- EVENT_TAKE (R110). -/
def execEventTake (s : State) : Result := s.request (Instr.period .eventTake) eventTakeAct

/-- EVENT-STATUS returns the stored and stalled counts, the lost counter and the next sequence number, and
changes nothing (R111). -/
def eventStatusAct (s : State) : State × Reply :=
  (s, .ok ([byteOf s.store.length, byteOf s.stalls.length, s.lost] ++ u16Bytes s.sequence))

/-- EVENT_STATUS (R111). -/
def execEventStatus (s : State) : Result := s.request (Instr.period .eventStatus) eventStatusAct

/-- EVENT-DISCARD empties the store and moves stalled events into it; it reports both counts (R112). Where the
refill makes responses of several tags deliverable on an idle channel, the model chooses among all of them once,
by the rotation, after the whole refill (DESIGN CHOICE, log entry 21: R20, R115 and R116 do not say whether the
first one is offered at once). -/
def eventDiscardAct (s : State) : State × Reply :=
  let refilled := { s with store := [] }.refill
  (refilled.offerNext,
    .ok [byteOf s.store.length, byteOf (s.stalls.length - refilled.stalls.length)])

/-- EVENT_DISCARD (R112). -/
def execEventDiscard (s : State) : Result := s.request (Instr.period .eventDiscard) eventDiscardAct

end Sys2Proof.Machine
end

