-- ==== Sys2Proof/Machine/Link.lean ====
section
/-! DEFINITION. The service link: READ_PERIOD (R158, R166, R167), RESPONSE_READY (R165) and IDENT (R170). -/

namespace Sys2Proof.Machine

/-- What the link sends after a read period's first byte, as far as a response reaches: the frame of a
READY response, or one that becomes READY in the period behind its NOT-READY bytes (R166). -/
def HeldResponse.stream (held : HeldResponse) (readyAfter : Option Nat) : List Byte :=
  match held, readyAfter with
  | .ready f, _ => f
  | .preparing f, some k => List.replicate k 0xFF ++ f
  | _, _ => []

/-- The bytes sent on LDO in a read period of `bytes` complete bytes: 0FFh during the first (R158), then
the response, and 0FFh wherever it does not reach (R166). -/
def HeldResponse.sent (held : HeldResponse) (bytes : Nat) (readyAfter : Option Nat) : List Byte :=
  (0xFF :: held.stream readyAfter ++ List.replicate bytes 0xFF).take bytes

/-- The held response after a read period: NONE once its CRC byte has been clocked out in full, else READY
and whole (R166, R167), or still PREPARING where it did not become READY in the period. -/
def HeldResponse.afterRead (held : HeldResponse) (bytes : Nat) (readyAfter : Option Nat) : HeldResponse :=
  match held, readyAfter with
  | .ready f, _ => if 1 + f.length ≤ bytes then .none else .ready f
  | .preparing f, some k =>
    if 1 + k + f.length ≤ bytes then .none
    else if 1 + k ≤ bytes then .ready f
    else .preparing f
  | other, _ => other

/-- A read period with at least one complete byte (R158). -/
def State.readPeriod (bytes : Nat) (readyAfter : Option Nat) (s : State) : State :=
  if bytes = 0 then s
  else { s with ldo := s.held.sent bytes readyAfter, held := s.held.afterRead bytes readyAfter }

/-- READ_PERIOD (R166). -/
def execReadPeriod (bytes : Nat) (readyAfter : Option Nat) (s : State) : Result :=
  s.whenTakingPeriods (State.readPeriod bytes readyAfter)

/-- A response that is PREPARING becomes READY (R165). -/
def HeldResponse.built : HeldResponse → HeldResponse
  | .preparing f => .ready f
  | other => other

/-- RESPONSE_READY (R165). -/
def execResponseReady (s : State) : Result := s.whenTakingEvents fun s => { s with held := s.held.built }

/-- IDENT (R170). -/
def execIdent (s : State) : Result :=
  s.request (Instr.period .ident) fun s => (s, .ok Config.identPayload)

end Sys2Proof.Machine
end

