-- ==== Sys2Proof/Machine/ProbeEngine.lean ====
section
/-! DEFINITION. The requests of the probe engine: PROBE_READ and PROBE_WRITE (R146, R147),
PROBE_RESULT (R152) and PROBE_CANCEL (R153, R96). -/

namespace Sys2Proof.Machine

/-- The probe is QUEUED or AT-MEMORY. -/
def Probe.inFlight : Probe → Bool
  | .queued _ => true
  | .atMemory _ => true
  | _ => false

/-- PROBE-READ or PROBE-WRITE: the checks of R146 in their order; an accepted probe becomes QUEUED, and a
previous result is discarded (R147). -/
def probeStartAct (q : ProbeRequest) (s : State) : State × Reply :=
  if !transferWellFormed q.access q.address q.beats q.writeData then (s, .refuse .badValue)
  else if s.probe.inFlight then (s, .refuse .busy)
  else if s.sysrst then (s, .refuse .badState)
  else ({ s with probe := .queued q }, .ok [])

/-- PROBE_READ (R147). -/
def execProbeRead (address : Addr) (beats : Byte) (s : State) : Result :=
  s.request (Instr.period (.probeRead address beats)) (probeStartAct ⟨.read, address, beats.toNat, []⟩)

/-- PROBE_WRITE (R147). -/
def execProbeWrite (address : Addr) (beats : List WriteBeat) (s : State) : Result :=
  s.request (Instr.period (.probeWrite address beats)) (probeStartAct ⟨.write, address, beats.length, beats⟩)

/-- PROBE-RESULT returns the result of a DONE probe and makes the probe IDLE (R152). -/
def probeResultAct (s : State) : State × Reply :=
  match s.probe with
  | .idle => (s, .refuse .empty)
  | .queued _ => (s, .refuse .busy)
  | .atMemory _ => (s, .refuse .busy)
  | .done q code data => ({ s with probe := .idle }, .ok (probeResultBytes q code data))

/-- PROBE_RESULT (R152). -/
def execProbeResult (s : State) : Result := s.request (Instr.period .probeResult) probeResultAct

/-- The slots after the probe has been removed from its slot, which becomes LINGERING with its timer
discarded (R96). -/
def lingerProbe (slots : Vector Slot 16) : Vector Slot 16 :=
  Vector.ofFn fun k => if slots[k].holdsProbe then .lingering else slots[k]

/-- PROBE-CANCEL ends the probe in whatever state it stands and reports that state (R153). -/
def probeCancelAct (s : State) : State × Reply :=
  match s.probe with
  | .atMemory _ => ({ s with probe := .idle, slots := lingerProbe s.slots }, .ok [s.probe.code])
  | _ => ({ s with probe := .idle }, .ok [s.probe.code])

/-- PROBE_CANCEL (R153). -/
def execProbeCancel (s : State) : Result := s.request (Instr.period .probeCancel) probeCancelAct

end Sys2Proof.Machine
end

