-- ==== Sys2Proof/Machine/Resets.lean ====
section
/-! DEFINITION. The resets: SYSRST_N_ASSERTION (R23, R77, R78, R99, R121, R155), SYSRST_N_RELEASE (R175),
POWER_ON_BEGIN and POWER_ON (R177), and CLEAR (R171). -/

namespace Sys2Proof.Machine

/-- A gate after a system reset: the state that HOLDBOOT gives, the timer stopped, limit and policy kept
(R77, R78). -/
def Gate.systemReset (holdboot : Bool) (g : Gate) : Gate := g.leaveClosed (.boot holdboot)

/-- The target-related state discarded at an assertion of SYSRST_N: the transit table with the arrival
counter and the response channel (R20, R23), the gates (R78), the slots and the arbiter (R99), and the
stall list, each of its events counted as lost (R121). -/
def State.discardTarget (s : State) (holdboot : Bool) : State :=
  { s with
    sysrst := true
    arrival := 0
    offer := none
    lastTag := 7
    records := Vector.replicate 8 []
    gates := Vector.ofFn fun t => (s.gates[t] : Gate).systemReset holdboot
    slots := Vector.replicate 16 .free
    arbiter := 8
    stalls := []
    lost := lostPlus s.lost s.stalls.length }

/-- A taken assertion of SYSRST_N, with the level of HOLDBOOT sampled at it: after the discards, a probe in
flight becomes DONE with TARGET-RESET and its event is placed, and then the TARGET-RESET event (R121, R122,
R155). No assertion is taken while one is in force (R175). -/
def State.systemReset (holdboot : Bool) (s : State) : State :=
  if s.sysrst then s
  else ((s.discardTarget holdboot).finishProbe .targetReset []).place .targetReset none

/-- SYSRST_N_ASSERTION (R23). -/
def execSysrstAssertion (holdboot : Bool) (s : State) : Result := s.whenTakingEvents (State.systemReset holdboot)

/-- SYSRST_N_RELEASE (R175): the assertion ends. -/
def execSysrstRelease (s : State) : Result := s.whenTakingEvents fun s => { s with sysrst := false }

/-- POWER_ON (R177): all state takes its power-on values, with HOLDBOOT and SYSRST_N sampled (R174, R176). LCS_N
stays at its level: while it is low the link takes no period (R172). Power-on completes only with CLK running
(R177). -/
def execPowerOn (holdboot sysrstLow : Bool) (s : State) : Result :=
  .next (if s.clkRunning then .powerOn holdboot sysrstLow s.lcsLow s.pending s.pins else s)

/-- POWER_ON_BEGIN (R177): all state is discarded, and the part takes no event until power-on completes.
What the discarded state holds meanwhile shows nowhere (DESIGN CHOICE, log entry 3: the power-on values). CLK
and LCS_N stay at what the board gives them. -/
def execPowerOnBegin (s : State) : Result :=
  .next { State.powerOn false false s.lcsLow s.pending s.pins with powered := false, clkRunning := s.clkRunning }

/-- A gate after CLEAR (R80). -/
def Gate.cleared : Gate where
  state := .opened
  limit := 0
  policy := .pass
  timer := none

/-- The configuration at its power-on values (R49, R80, R100, R123, R144) and every stall mark cleared
(R25, R123), before the heads are considered. -/
def State.clearConfiguration (s : State) : State :=
  { s with
    entries := Vector.replicate 16 .powerOn
    gates := Vector.replicate 8 .cleared
    records := Vector.ofFn fun t => s.records[t].map fun r => { r with stalled := false }
    responseLimit := Config.powerOnResponseLimit
    store := []
    stalls := []
    lost := 0
    sequence := 0
    waitsPending := []
    waitsComplete := []
    enableCompletions := true
    enableStored := false }

/-- CLEAR: the configuration is cleared, and each tag's head is considered as its gate opens (R80, R171). -/
def clearAct (s : State) : State × Reply :=
  ((allTags.foldl State.consider s.clearConfiguration).offerNext, .ok [])

/-- CLEAR (R171). -/
def execClear (s : State) : Result := s.request (Instr.period .clear) clearAct

end Sys2Proof.Machine
end

