-- ==== Sys2Proof/Machine/Traffic.lean ====
section
/-! DEFINITION. The initiator port: ACCEPTANCE (R1 to R7, R32 to R40) and DELIVERY (R19, R20). -/

namespace Sys2Proof.Machine

/-- The record of an accepted request, before its judgement: GATED, not stalled, hold not spent (R6). -/
def State.freshRecord (s : State) (privilege : Privilege) (address : Addr) (body : RequestBody) :
    TransitRecord where
  id := s.nextId
  privilege := privilege
  access := bodyAccess body
  address := address
  beats := bodyBeats body
  writeData := bodyData body
  arrival := s.arrival
  phase := .gated
  stalled := false
  decision := .none
  fired := []
  spent := false

/-- The record joins the young end of its tag's list, and the arrival counter advances (R4, R9). -/
def State.addRecord (s : State) (tag : Tag) (r : TransitRecord) : State :=
  { s.setRecords tag (s.records[tag] ++ [r]) with arrival := s.arrival + 1, nextId := s.nextId + 1 }

/-- The record of a malformed request (R7): ANSWERED at once with code MALFORMED; no data and enables are
kept; a READ's answer has a zero value per beat, or none for a beat count outside 1 to 16 (R16). -/
def TransitRecord.asMalformed (r : TransitRecord) : TransitRecord :=
  { r with
    writeData := []
    decision := .malformed
    phase := .answered ⟨.malformed,
      if 1 ≤ r.beats.toNat ∧ r.beats.toNat ≤ Config.maxBeats then answerData r.access r.beats.toNat []
      else []⟩ }

/-- The acceptance of a malformed request (R7). -/
def State.acceptMalformed (s : State) (tag : Tag) (r : TransitRecord) : State :=
  ((s.addRecord tag r.asMalformed).place (.malformed (r.transaction tag)) none).offerNext

/-- The record with the decision and fired list that the evaluation gives it, in its first phase (R6). -/
def TransitRecord.judged (r : TransitRecord) (decision : Decision) (fired : List WatchIndex) :
    TransitRecord :=
  { r with
    decision := decision
    fired := fired
    phase := if decision = .refuse then .answered ⟨.refused, answerData r.access r.beats.toNat []⟩
      else .gated }

/-- The request-phase evaluation of a record: the entries after it, and its WATCH event, if a reporting
entry fired, placed with or without a link to the record (R32, R39, R40). -/
def State.judgeRequest (s : State) (tag : Tag) (r : TransitRecord) : State :=
  let judge := WatchEntry.judgeRequest tag r
  let fired := firedList s.entries judge
  let decision := decisionOf s.entries fired
  let judged := { s with entries := evaluateEntries s.entries judge (r.transaction tag) }
  let recorded := judged.addRecord tag (r.judged decision fired)
  if reports s.entries fired then
    recorded.place (.watch (r.transaction tag) (firingOf s.entries judge decision.applied))
      (if reportsLossless s.entries fired then some ⟨tag, r.id⟩ else none)
  else recorded

/-- The acceptance of a well-formed request (R6): the evaluation, the record with its stall if it has one,
and then the consideration of the tag's head, which is the new record if the tag had no GATED record and
otherwise waits as it did (R52, R53). -/
def State.acceptWellFormed (s : State) (tag : Tag) (r : TransitRecord) : State :=
  ((s.judgeRequest tag r).consider tag).offerNext

/-- A lane's request is taken when the tag's room is above 0 and SYSRST_N is not asserted; otherwise it
stays offered, and the part takes nothing (R3, R24). -/
def State.accept (tag : Tag) (privilege : Privilege) (address : Addr) (body : RequestBody)
    (s : State) : State :=
  if s.sysrst || s.room tag == 0 then s
  else
    let r := s.freshRecord privilege address body
    if transferWellFormed r.access r.address r.beats.toNat r.writeData then s.acceptWellFormed tag r
    else s.acceptMalformed tag r

/-- ACCEPTANCE (R6). -/
def execAcceptance (tag : Tag) (privilege : Privilege) (address : Addr) (body : RequestBody)
    (s : State) : Result :=
  s.whenTakingEvents (State.accept tag privilege address body)

/-- The initiator takes the offered response: the record is freed, its tag is the tag last taken, and the
channel offers the next deliverable response (R19, R20). Nothing is transferred while none is offered. -/
def State.deliverResponse (s : State) : State :=
  match s.offer with
  | none => s
  | some tag =>
    match s.deliverable tag with
    | none => s
    | some response =>
      { s.setRecords tag (s.records[tag].drop 1) with
        lastResponse := some response
        lastTag := tag
        offer := none }.offerNext

/-- DELIVERY (R19). -/
def execDelivery (s : State) : Result := s.whenTakingEvents State.deliverResponse

end Sys2Proof.Machine
end

