-- ==== Sys2Proof/Machine/Waits.lean ====
section
/-! DEFINITION. The requests of the wait table: WAIT_POST (R129 to R132), WAIT_CANCEL (R138),
WAIT_TAKE (R136) and ATTN_SET (R141). -/

namespace Sys2Proof.Machine

/-- An accepted WAIT-POST: the new wait takes the oldest matching event of the store (R130), else of the
stall list (R131), else becomes PENDING (R132). -/
def State.postWait (s : State) (handle : Byte) (selector : Selector) : State × Reply :=
  match takeFirst (fun d => selector.accepts d.event) s.store with
  | some (d, rest) =>
    ({ s with
        store := rest
        waitsComplete := s.waitsComplete ++ [CompleteWait.mk handle selector d] }.refill.offerNext,
      .ok (0x01 :: u16Bytes d.sequence))
  | none =>
    match takeFirst (fun e => selector.accepts e.event) s.stalls with
    | some (e, rest) =>
      (((({ s with stalls := rest }).deliverToWait e.event handle selector).unstall e.link).offerNext,
        .ok (0x02 :: u16Bytes s.sequence))
    | none =>
      ({ s with waitsPending := s.waitsPending ++ [PendingWait.mk handle selector] },
        .ok (0x00 :: u16Bytes 0))

/-- WAIT-POST: the checks of R129 in their order, then the post. -/
def waitPostAct (handle kinds tags : Byte) (watches : BitVec 16) (s : State) : State × Reply :=
  if kinds = 0 ∨ kinds.getLsbD 7 = true then (s, .refuse .badValue)
  else if s.handleInUse handle then (s, .refuse .inUse)
  else if Config.waitCapacity ≤ s.nonFreeWaits then (s, .refuse .full)
  else s.postWait handle ⟨kinds, tags, watches⟩

/-- WAIT_POST (R129). -/
def execWaitPost (handle kinds tags : Byte) (watches : BitVec 16) (s : State) : Result :=
  s.request (Instr.period (.waitPost handle kinds tags watches)) (waitPostAct handle kinds tags watches)

/-- WAIT-CANCEL frees a PENDING wait by its handle; a COMPLETE one stays (R138). -/
def waitCancelAct (handle : Byte) (s : State) : State × Reply :=
  match takeFirst (fun w => w.handle == handle) s.waitsPending with
  | some (_, rest) => ({ s with waitsPending := rest }, .ok [])
  | none =>
    if s.waitsComplete.any (·.handle == handle) then (s, .refuse .tooLate) else (s, .refuse .noSuch)

/-- WAIT_CANCEL (R138). -/
def execWaitCancel (handle : Byte) (s : State) : Result :=
  s.request (Instr.period (.waitCancel handle)) (waitCancelAct handle)

/-- WAIT-TAKE returns and frees the oldest COMPLETE wait (R136). -/
def waitTakeAct (s : State) : State × Reply :=
  match s.waitsComplete with
  | [] => (s, .refuse .empty)
  | w :: rest => ({ s with waitsComplete := rest }, .ok (w.handle :: w.event.bytes))

/-- WAIT_TAKE (R136). -/
def execWaitTake (s : State) : Result := s.request (Instr.period .waitTake) waitTakeAct

/-- The ATTN-SET response: enables, conditions holding, ATTN asserted, PENDING and COMPLETE waits (10.7). -/
def State.attnBytes (s : State) : List Byte :=
  [conditionsByte s.enableCompletions s.enableStored, conditionsByte s.completionsHold s.storedHolds,
   boolByte s.attn, byteOf s.waitsPending.length, byteOf s.waitsComplete.length]

/-- ATTN-SET sets the attention enables; a set that names anything but the two conditions is refused
(R141). -/
def attnSetAct (conditions : Byte) (s : State) : State × Reply :=
  if 4 ≤ conditions.toNat then (s, .refuse .badValue)
  else
    let set := { s with
      enableCompletions := conditions.getLsbD 0
      enableStored := conditions.getLsbD 1 }
    (set, .ok set.attnBytes)

/-- ATTN_SET (R141). -/
def execAttnSet (conditions : Byte) (s : State) : Result :=
  s.request (Instr.period (.attnSet conditions)) (attnSetAct conditions)

end Sys2Proof.Machine
end

