-- ==== Sys2Proof/Machine/WatchTable.lean ====
section
/-! DEFINITION. The requests of the watch table: WATCH_WRITE (R27, R28), WATCH_READ (R47) and WATCH-STATE
with each of its parameters (R30, R31). -/

namespace Sys2Proof.Machine

/-- An entry right after an accepted WATCH-WRITE of a definition (R28). -/
def WatchEntry.written (d : Definition) : WatchEntry where
  undefined := false
  definition := d
  state := if d.startLive then .live else .dormant
  skips := d.skip.getD 0
  fires := 0
  latch := none

/-- WATCH-WRITE: the checks of R27 in their order, then the whole entry replaced (R28). -/
def watchWriteAct (raw : RawDefinition) (index : WatchIndex) (s : State) : State × Reply :=
  match definitionOf raw with
  | none => (s, .refuse .badValue)
  | some d =>
    if d.permitted index then (s.setEntry index (.written d), .ok [])
    else (s, .refuse .badValue)

/-- WATCH_WRITE (R28). -/
def execWatchWrite (index : Byte) (definition : RawDefinition) (s : State) : Result :=
  s.request (Instr.period (.watchWrite index definition)) (withEntry index (watchWriteAct definition))

/-- WATCH-READ returns the entry's contents and changes nothing (R47). -/
def watchReadAct (index : WatchIndex) (s : State) : State × Reply :=
  (s, .ok (s.entries[index].bytes index))

/-- WATCH_READ (R47). -/
def execWatchRead (index : Byte) (s : State) : Result :=
  s.request (Instr.period (.watchRead index)) (withEntry index watchReadAct)

/-- The start state of a definition as an entry state. -/
def Definition.startState (d : Definition) : EntryState := if d.startLive then .live else .dormant

/-- What a WATCH-STATE parameter makes of a defined entry (R30, R31); `none` for a parameter that is none
of the four. -/
def watchStateChange (parameter : Byte) (e : WatchEntry) : Option WatchEntry :=
  match parameter.toNat with
  | 0 => some { e with state := .disabled }
  | 1 => some { e with state := .live }
  | 2 => some { e with state := .dormant }
  | 3 => some { e with state := e.definition.startState, skips := e.definition.skip.getD 0 }
  | _ => none

/-- WATCH-STATE: the parameter is checked before the entry's undefined flag (R30). -/
def watchStateAct (parameter : Byte) (index : WatchIndex) (s : State) : State × Reply :=
  match watchStateChange parameter s.entries[index] with
  | none => (s, .refuse .badValue)
  | some e => if s.entries[index].undefined then (s, .refuse .badState) else (s.setEntry index e, .ok [])

/-- DISABLE (R30). -/
def execDisable (index : Byte) (s : State) : Result :=
  s.request (Instr.period (.disable index)) (withEntry index (watchStateAct 0x00))

/-- ENABLE_LIVE (R30). -/
def execEnableLive (index : Byte) (s : State) : Result :=
  s.request (Instr.period (.enableLive index)) (withEntry index (watchStateAct 0x01))

/-- ENABLE_DORMANT (R30). -/
def execEnableDormant (index : Byte) (s : State) : Result :=
  s.request (Instr.period (.enableDormant index)) (withEntry index (watchStateAct 0x02))

/-- REARM (R31). -/
def execRearm (index : Byte) (s : State) : Result :=
  s.request (Instr.period (.rearm index)) (withEntry index (watchStateAct 0x03))

/-- WATCH_STATE with a parameter that is none of the four is refused with BAD-VALUE, after the index
check (R30); one of the four acts as that parameter does. -/
def execWatchState (index : Byte) (parameter : Byte) (s : State) : Result :=
  s.request (Instr.period (.watchState index parameter)) (withEntry index (watchStateAct parameter))

end Sys2Proof.Machine
end

