-- ==== Sys2Proof/Machine/Period.lean ====
section
/-! DEFINITION. A chip-select period taken from its bytes: BAD_FRAME (R161) and BAD_REQUEST (R162) are
periods whose frames the link refuses. Bytes that are no such frame act as what they are. -/

namespace Sys2Proof.Machine

/-- The link refuses a request period: its response is READY at once (R161, R162, R165), and nothing but
the link's own state changes. -/
def State.refusePeriod (s : State) (bytes : List Byte) (status : Status) : Result :=
  s.whenTakingPeriods fun s => s.endPeriod bytes (.ready (Reply.refuse status).frame)

/-- A chip-select period with the given complete bytes on LDI: nothing without a complete byte, a read
period after 0FFh (R158), a refusal by the link (R161, R162), or a request handed to its block (R163). -/
def runPeriod (bytes : List Byte) (s : State) : Result :=
  match decodePeriod bytes with
  | none => .next s
  | some i =>
    match i with
    | .readPeriod n readyAfter => execReadPeriod n readyAfter s
    | .badFrame bytes => s.refusePeriod bytes .badFrame
    | .badRequest bytes => s.refusePeriod bytes .badRequest
    | .ident => execIdent s
    | .clear => execClear s
    | .setResponseLimit limit => execSetResponseLimit limit s
    | .watchWrite index definition => execWatchWrite index definition s
    | .watchRead index => execWatchRead index s
    | .disable index => execDisable index s
    | .enableLive index => execEnableLive index s
    | .enableDormant index => execEnableDormant index s
    | .rearm index => execRearm index s
    | .watchState index parameter => execWatchState index parameter s
    | .tagRead tag => execTagRead tag s
    | .tagFreeze tag => execTagFreeze tag s
    | .tagResume tag => execTagResume tag s
    | .tagStep tag n => execTagStep tag n s
    | .tagWithdraw tag after => execTagWithdraw tag after s
    | .tagLimit tag limit policy => execTagLimit tag limit policy s
    | .heldList tag => execHeldList tag s
    | .heldPatch tag beat data enables => execHeldPatch tag beat data enables s
    | .heldAnswer tag values => execHeldAnswer tag values s
    | .eventTake => execEventTake s
    | .eventStatus => execEventStatus s
    | .eventDiscard => execEventDiscard s
    | .waitPost handle kinds tags watches => execWaitPost handle kinds tags watches s
    | .waitCancel handle => execWaitCancel handle s
    | .waitTake => execWaitTake s
    | .attnSet conditions => execAttnSet conditions s
    | .probeRead address beats => execProbeRead address beats s
    | .probeWrite address beats => execProbeWrite address beats s
    | .probeResult => execProbeResult s
    | .probeCancel => execProbeCancel s
    | .acceptance _ _ _ _ | .delivery | .grant | .answer _ _ _ | .responseTimerExpiry _
    | .holdTimerExpiry _ | .sysrstAssertion _ | .sysrstRelease | .powerOn _ _ | .powerOnBegin
    | .responseReady => .next s

/-- BAD_FRAME (R161): a period whose frame fails the byte count, length or CRC check gets a BAD-FRAME
response and reaches no block. -/
def execBadFrame (bytes : List Byte) (s : State) : Result := runPeriod bytes s

/-- BAD_REQUEST (R162): a correct frame with an unknown code, or a length not permitted for its code, is
refused with BAD-REQUEST. -/
def execBadRequest (bytes : List Byte) (s : State) : Result := runPeriod bytes s

end Sys2Proof.Machine
end

