-- ==== Sys2Proof/Machine/Pins.lean ====
section
/-! DEFINITION. The pins below the commands: a chip-select period bit by bit (R157 to R159, R166, R167), LCS_N
since power was applied (R172), and a stopped CLK (R178). A period that is taken here comes to the same as the
command that stands for it whole. -/

namespace Sys2Proof.Machine

/-! ## Bits and bytes -/

/-- The byte that eight bits spell, most significant bit first (R157). -/
def byteOfBits (bits : List Bool) : Byte := byteOf (bits.foldl (fun n b => 2 * n + b.toNat) 0)

/-- The bits of a byte, most significant bit first (R157). -/
def byteBits (b : Byte) : List Bool := [7, 6, 5, 4, 3, 2, 1, 0].map b.getLsbD

/-! ## A period in progress -/

/-- A period begins: the bit count is 0, and the first bit of its first outgoing byte, 0FFh, stands on LDO
(R157, R158). -/
def LinkPeriod.begun : LinkPeriod := ⟨[], [], 0xFF, none, 0, 0⟩

/-- The period is a read period: its first complete byte is 0FFh (R158). -/
def LinkPeriod.isRead (p : LinkPeriod) : Bool := p.received.head? == some 0xFF

/-- The outgoing byte that begins now, with its place in the response frame: in a read period the next byte of
a READY response, and 0FFh in every other case (R159, R166). -/
def LinkPeriod.nextOut (p : LinkPeriod) (held : HeldResponse) : Byte × Option Nat :=
  match p.isRead, held with
  | true, .ready f =>
    let place := match p.place with
      | some j => j + 1
      | none => 0
    (f.getD place 0xFF, some place)
  | _, _ => (0xFF, none)

/-- A falling edge of LCK: LDO goes on to the next bit of the outgoing byte, or to the first bit of the next one
when a byte has become complete since that began (R157, R166). -/
def LinkPeriod.lckFall (p : LinkPeriod) (held : HeldResponse) : LinkPeriod :=
  if p.index < p.received.length then
    let out := p.nextOut held
    { p with sending := out.1, place := out.2, index := p.received.length, shown := p.bits.length }
  else { p with shown := p.bits.length }

/-- The held response when a byte of a read period is complete: NONE once the last byte of its frame has been
clocked out in full (R166, R167). -/
def LinkPeriod.heldAfterByte (p : LinkPeriod) (held : HeldResponse) : HeldResponse :=
  match held, p.place with
  | .ready f, some j => if p.index = p.received.length ∧ f.length ≤ j + 1 then .none else .ready f
  | other, _ => other

/-- A byte of the period is complete. The first one decides what the period is (R158), and in a request period it
discards the held response (R159); a request period's bytes are kept up to the 163rd and all counted (R159). -/
def State.byteComplete (s : State) (p : LinkPeriod) (b : Byte) : State :=
  let q := { p with bits := [], received := p.received ++ [b] }
  match p.received with
  | [] =>
    if b = 0xFF then { s with period := some q, ldo := [p.sending] }
    else { s with period := some q, ldo := [p.sending], held := .none, requestBuffer := [b], requestCount := 1 }
  | _ :: _ =>
    if p.isRead then
      { s with period := some q, ldo := s.ldo ++ [p.sending], held := p.heldAfterByte s.held }
    else
      { s with
        period := some q
        ldo := s.ldo ++ [p.sending]
        requestBuffer := (s.requestBuffer ++ [b]).take Config.requestBufferSize
        requestCount := s.requestCount + 1 }

/-- A rising edge of LCK: the level of LDI is the next bit, and the eighth bit completes a byte (R157). -/
def State.lckRise (s : State) (ldi : Bool) : State :=
  match s.period with
  | none => s
  | some p =>
    if p.bits.length < 7 then { s with period := some { p with bits := p.bits ++ [ldi] } }
    else s.byteComplete p (byteOfBits (p.bits ++ [ldi]))

/-- The period ends; bits after its last complete byte are ignored (R157). A request period is judged and taken
now (R161, R163); a period without a complete byte changes nothing, and a read period has done all it does
(R158). -/
def State.periodEnds (s : State) : Result :=
  match s.period with
  | none => .next s
  | some p =>
    if p.received.isEmpty || p.isRead then .next { s with period := none }
    else runPeriod p.received { s with period := none }

/-! ## Pin changes -/

/-- A change of a pin. A falling edge of LCS_N begins a period and a rising edge ends one; edges of LCK while LCS_N
is high, or where no period was taken, are not counted (R157, R172). During power-on and while CLK is stopped
only the level of LCS_N is kept (R177, R178). When CLK runs again, every timer goes on from the time it had
left, and a period whose LCS_N has risen meanwhile ends and is judged by the bytes it has (R178; what becomes
of edges meanwhile is log entry 20). -/
def State.takePin (change : PinChange) (s : State) : Result :=
  match change with
  | .lcsFall =>
    .next (if s.lcsLow then s
      else if s.takesEvents then { s with lcsLow := true, period := some .begun }
      else { s with lcsLow := true })
  | .lcsRise =>
    if s.lcsLow then
      if s.takesEvents then State.periodEnds { s with lcsLow := false } else .next { s with lcsLow := false }
    else .next s
  | .lckRise ldi => .next (if s.takesEvents && s.lcsLow then s.lckRise ldi else s)
  | .lckFall =>
    .next (if s.takesEvents && s.lcsLow then { s with period := s.period.map (·.lckFall s.held) } else s)
  | .clkStop => .next { s with clkRunning := false }
  | .clkRun =>
    if s.clkRunning || s.lcsLow then .next { s with clkRunning := true }
    else State.periodEnds { s with clkRunning := true }

/-- Pin changes taken one after another. -/
def State.takePins : List PinChange → State → Result
  | [], s => .next s
  | change :: rest, s =>
    match s.takePin change with
    | .next t => t.takePins rest
    | .fault f => .fault f
    | .refused r => .refused r

/-- The pin changes that clock in bits: for each a rising edge of LCK with its level on LDI, then a falling
edge. -/
def bitPins (bits : List Bool) : List PinChange := bits.flatMap fun b => [.lckRise b, .lckFall]

/-- The pin changes of a chip-select period with the complete bytes `bytes` on LDI, each most significant bit
first, and then the bits `tail` short of a byte (R157). -/
def periodPins (bytes : List Byte) (tail : List Bool) : List PinChange :=
  .lcsFall :: bitPins (bytes.flatMap byteBits ++ tail) ++ [.lcsRise]

/-- The levels of LDO that the host samples: one at each rising edge of LCK (R157). -/
def State.ldoSamples : List PinChange → State → List (Option Bool)
  | [], _ => []
  | change :: rest, s =>
    let later := match s.takePin change with
      | .next t => t.ldoSamples rest
      | _ => []
    match change with
    | .lckRise _ => s.ldoPin :: later
    | _ => later

end Sys2Proof.Machine
end

