-- ==== Sys2Proof/Machine/Idle.lean ====
section
/-! DEFINITION. What happens while no command waits (DESIGN CHOICE, log entries 4 and 19): a waiting pin change is
taken, else the expiry of a timer that has run out, and else one microsecond passes for every running timer, a
microsecond being a fixed number of periods of CLK (R70, R91, R178). -/

namespace Sys2Proof.Machine

/-- The hold timer after one more microsecond. -/
def Gate.tick (g : Gate) : Gate := { g with timer := g.timer.map (· - 1) }

/-- The response timer of a slot after one more microsecond. -/
def Slot.tick : Slot → Slot
  | .busy occupant access beats limit timer => .busy occupant access beats limit (timer.map (· - 1))
  | other => other

/-- One microsecond passes: every running timer counts down (R70, R91). -/
def State.tick (s : State) : State :=
  { s with
    gates := Vector.ofFn fun t => (s.gates[t] : Gate).tick
    slots := Vector.ofFn fun k => (s.slots[k] : Slot).tick }

/-- The slot's response timer has run out and its expiry is still to be taken. -/
def Slot.isDue : Slot → Bool
  | .busy _ _ _ _ timer => timer == some 0
  | _ => false

/-- The first tag whose hold timer has run out. -/
def State.dueHold (s : State) : Option Tag := allTags.find? fun t => s.gates[t].timer == some 0

/-- The first slot whose response timer has run out. -/
def State.dueSlot (s : State) : Option SlotIndex := allSlots.find? fun k => s.slots[k].isDue

/-- The passing of time: an expiry that is due, hold timers before response timers, or the passing of a
microsecond; nothing during power-on or while CLK is stopped (R177, R178). -/
def State.passTime (s : State) : State :=
  if s.takesEvents then
    match s.dueHold with
    | some tag => s.expireHold tag
    | none =>
      match s.dueSlot with
      | some slot => s.expireResponse slot
      | none => s.tick
  else s

/-- The part with no command waiting: the pin change at the front is taken, or time passes. -/
def State.idle (s : State) : Result :=
  match s.pins with
  | [] => .next s.passTime
  | change :: rest => State.takePin change { s with pins := rest }

end Sys2Proof.Machine
end

