-- ==== Sys2Proof/Machine/Dispatch.lean ====
section
/-! DEFINITION. The dispatch of a command to its meaning. -/

namespace Sys2Proof.Machine

def exec (i : Instr) (s : State) : Host.Outcome State Fault Refusal :=
  match i with
  | .acceptance tag privilege address body => Sys2Proof.Machine.execAcceptance tag privilege address body s
  | .delivery => Sys2Proof.Machine.execDelivery s
  | .grant => Sys2Proof.Machine.execGrant s
  | .answer slot code data => Sys2Proof.Machine.execAnswer slot code data s
  | .responseTimerExpiry slot => Sys2Proof.Machine.execResponseTimerExpiry slot s
  | .holdTimerExpiry tag => Sys2Proof.Machine.execHoldTimerExpiry tag s
  | .sysrstAssertion holdboot => Sys2Proof.Machine.execSysrstAssertion holdboot s
  | .sysrstRelease => Sys2Proof.Machine.execSysrstRelease s
  | .powerOn holdboot sysrstLow => Sys2Proof.Machine.execPowerOn holdboot sysrstLow s
  | .readPeriod bytes readyAfter => Sys2Proof.Machine.execReadPeriod bytes readyAfter s
  | .responseReady => Sys2Proof.Machine.execResponseReady s
  | .badFrame bytes => Sys2Proof.Machine.execBadFrame bytes s
  | .badRequest bytes => Sys2Proof.Machine.execBadRequest bytes s
  | .ident => Sys2Proof.Machine.execIdent s
  | .clear => Sys2Proof.Machine.execClear s
  | .setResponseLimit limit => Sys2Proof.Machine.execSetResponseLimit limit s
  | .watchWrite index definition => Sys2Proof.Machine.execWatchWrite index definition s
  | .watchRead index => Sys2Proof.Machine.execWatchRead index s
  | .disable index => Sys2Proof.Machine.execDisable index s
  | .enableLive index => Sys2Proof.Machine.execEnableLive index s
  | .enableDormant index => Sys2Proof.Machine.execEnableDormant index s
  | .rearm index => Sys2Proof.Machine.execRearm index s
  | .tagRead tag => Sys2Proof.Machine.execTagRead tag s
  | .tagFreeze tag => Sys2Proof.Machine.execTagFreeze tag s
  | .tagResume tag => Sys2Proof.Machine.execTagResume tag s
  | .tagStep tag n => Sys2Proof.Machine.execTagStep tag n s
  | .tagWithdraw tag after => Sys2Proof.Machine.execTagWithdraw tag after s
  | .tagLimit tag limit policy => Sys2Proof.Machine.execTagLimit tag limit policy s
  | .heldList tag => Sys2Proof.Machine.execHeldList tag s
  | .heldPatch tag beat data enables => Sys2Proof.Machine.execHeldPatch tag beat data enables s
  | .heldAnswer tag values => Sys2Proof.Machine.execHeldAnswer tag values s
  | .eventTake => Sys2Proof.Machine.execEventTake s
  | .eventStatus => Sys2Proof.Machine.execEventStatus s
  | .eventDiscard => Sys2Proof.Machine.execEventDiscard s
  | .waitPost handle kinds tags watches => Sys2Proof.Machine.execWaitPost handle kinds tags watches s
  | .waitCancel handle => Sys2Proof.Machine.execWaitCancel handle s
  | .waitTake => Sys2Proof.Machine.execWaitTake s
  | .attnSet conditions => Sys2Proof.Machine.execAttnSet conditions s
  | .probeRead address beats => Sys2Proof.Machine.execProbeRead address beats s
  | .probeWrite address beats => Sys2Proof.Machine.execProbeWrite address beats s
  | .probeResult => Sys2Proof.Machine.execProbeResult s
  | .probeCancel => Sys2Proof.Machine.execProbeCancel s
  | .powerOnBegin => Sys2Proof.Machine.execPowerOnBegin s
  | .watchState index parameter => Sys2Proof.Machine.execWatchState index parameter s

end Sys2Proof.Machine
end

