-- ==== Sys2Proof/Safety.lean ====
section
/-! DEFINITION. What counts as a sound state of the part: the laws the manual states about all its states,
each a decidable proposition. -/

namespace Sys2Proof.Machine

/-- Capacities: at most 4 records a tag (R2), at most 32 stored events (R109), a stall list that is
non-empty only while the store holds 32 (R115), and at most 16 non-free waits (R125). -/
abbrev State.CapacityLaw (s : State) : Prop :=
  (∀ t : Tag, s.records[t].length ≤ 4) ∧ s.store.length ≤ 32
    ∧ (s.stalls = [] ∨ s.store.length = 32)
    ∧ s.waitsPending.length + s.waitsComplete.length ≤ 16

/-- The law of R53 for one gate: at an OPEN or STEPPING gate the oldest GATED record, if any, is stalled. -/
abbrev GatePassageLaw (g : Gate) (l : List TransitRecord) : Prop :=
  g.state.isClosed = true ∨ (headOf l).all (·.stalled) = true

/-- The hold timer of one gate runs exactly while the gate is CLOSED with a GATED record behind it and a
non-zero limit (R70), and a STEPPING gate has steps remaining (03, 3.1). -/
abbrev GateTimerLaw (g : Gate) (l : List TransitRecord) : Prop :=
  (g.timer.isSome = (g.state.isClosed && hasGated l && g.limit != 0)) ∧ g.state ≠ .stepping 0

/-- The gate laws of every tag (R53, R70). -/
abbrev State.GateLaw (s : State) : Prop :=
  ∀ t : Tag, GatePassageLaw s.gates[t] s.records[t] ∧ GateTimerLaw s.gates[t] s.records[t]

/-- No two non-free waits share a handle (R125). -/
abbrev State.HandleLaw (s : State) : Prop :=
  (s.waitsPending.map (·.handle) ++ s.waitsComplete.map (·.handle)).Nodup

/-- No stored or stalled event matches the selector of a PENDING wait (R132). -/
abbrev State.SelectorLaw (s : State) : Prop :=
  (∀ w ∈ s.waitsPending, ∀ d ∈ s.store, w.selector.accepts d.event = false)
    ∧ (∀ w ∈ s.waitsPending, ∀ e ∈ s.stalls, w.selector.accepts e.event = false)

/-- A record that is stalled is GATED or ANSWERED (R13, R114). -/
abbrev TransitRecord.StallPhaseLaw (r : TransitRecord) : Prop :=
  r.stalled = true → r.isGated = true ∨ r.isAnswered = true

/-- Stalls (R17, R104, R113): the records' marks are told apart, each entry of the stall list belongs to one
stalled record, and each stalled record has exactly one entry. -/
abbrev State.StallLaw (s : State) : Prop :=
  (∀ t : Tag, (s.records[t].map (·.id)).Nodup ∧ ∀ r ∈ s.records[t],
      r.id < s.nextId ∧ r.StallPhaseLaw ∧ (r.stalled = true → ∃ e ∈ s.stalls, e.link = ⟨t, r.id⟩))
    ∧ (s.stalls.map (·.link)).Nodup
    ∧ (∀ e ∈ s.stalls, e.event.tag? = some e.link.tag
        ∧ ∃ r ∈ s.records[e.link.tag], r.id = e.link.id ∧ r.stalled = true)

/-- The response channel offers a deliverable response, and offers one whenever one is deliverable
(R19, R20). -/
abbrev State.OfferLaw (s : State) : Prop :=
  (∀ t : Tag, s.offer = some t → (s.deliverable t).isSome = true)
    ∧ (s.offer = none → ∀ t : Tag, s.deliverable t = none)

/-- The slot is BUSY with a record of the tag that has this access and beat count. -/
def Slot.holdsRecord (tag : Tag) : Slot → Bool
  | .busy (.record t) _ _ _ _ => t == tag
  | _ => false

/-- The slot's issued access and beat count are the record's (04, 4.1). -/
def Slot.issued (r : TransitRecord) : Slot → Bool
  | .busy (.record _) access beats _ _ => access == r.access && beats == r.beats.toNat
  | _ => false

/-- A running response timer has a non-zero slot limit and no more than it to run (R85, R91). -/
def Slot.timerSound : Slot → Bool
  | .busy _ _ _ limit timer =>
    match timer with
    | none => limit == 0
    | some micros => limit != 0 && micros ≤ limit.toNat
  | _ => true

/-- Slots and occupants (R81): a slot is BUSY with a record of a tag exactly while one record of that tag
names it, with the access and beats as issued; it is BUSY with the probe for at most one slot, exactly
while the probe is AT-MEMORY. -/
abbrev State.SlotLaw (s : State) : Prop :=
  (∀ (t : Tag) (k : SlotIndex), (s.records[t].filter (·.inSlot k)).length
      = if s.slots[k].holdsRecord t then 1 else 0)
    ∧ (∀ (t : Tag) (k : SlotIndex), ∀ r ∈ s.records[t], r.inSlot k = true → s.slots[k].issued r = true)
    ∧ (allSlots.filter fun k => s.slots[k].holdsProbe).length
        = (match s.probe with
          | .atMemory _ => 1
          | _ => 0)
    ∧ (∀ k : SlotIndex, s.slots[k].timerSound = true)

/-- The content of a record (R5, R7, R12, R38): a well-formed one satisfies the tests of R5 with one beat of
data per beat of a WRITE; a malformed one keeps no data and is ANSWERED; a GATED one was neither refused nor
malformed; and a HOLD-BEFORE that is past the gate was spent. -/
abbrev TransitRecord.ContentLaw (r : TransitRecord) : Prop :=
  (r.decision ≠ .malformed → transferWellFormed r.access r.address r.beats.toNat r.writeData = true)
    ∧ (r.access = .write → r.decision ≠ .malformed → r.writeData.length = r.beats.toNat)
    ∧ (r.access = .read ∨ r.decision = .malformed → r.writeData = [])
    ∧ (r.decision = .malformed ∨ r.decision = .refuse → r.isAnswered = true)
    ∧ (r.decision = .holdBefore → r.isReady = true ∨ r.isAtMemory = true → r.spent = true)

/-- The answer of an ANSWERED record. -/
def TransitRecord.answer? (r : TransitRecord) : Option Answer :=
  match r.phase with
  | .answered a => some a
  | _ => none

/-- The answer of an ANSWERED record (R7, R16): one value per beat for a READ of 1 to 16 beats and none
otherwise, all of them zero unless the code is DONE; REFUSED and MALFORMED answer exactly the records with
those decisions. -/
abbrev TransitRecord.AnswerLaw (r : TransitRecord) : Prop :=
  ∀ a ∈ r.answer?,
    a.data.length = (if r.access = .read ∧ 1 ≤ r.beats.toNat ∧ r.beats.toNat ≤ 16 then r.beats.toNat else 0)
      ∧ (a.code = .done ∨ a.data = List.replicate a.data.length 0)
      ∧ (a.code = .refused ↔ r.decision = .refuse) ∧ (a.code = .malformed ↔ r.decision = .malformed)

/-- Every record's content and answer. -/
abbrev State.RecordLaw (s : State) : Prop := ∀ t : Tag, ∀ r ∈ s.records[t], r.ContentLaw ∧ r.AnswerLaw

/-- The request that a probe context holds outside IDLE. -/
def Probe.request? : Probe → Option ProbeRequest
  | .idle => none
  | .queued q => some q
  | .atMemory q => some q
  | .done q _ _ => some q

/-- The result code and read data that a probe context holds in DONE. -/
def Probe.result? : Probe → Option (ProbeCode × List Beat)
  | .done _ code data => some (code, data)
  | _ => none

/-- The probe context (07, 7.1; R146, R151, R155): outside IDLE a request that passes the tests of R146, with
one beat of data per beat of a WRITE and none for a READ; in DONE one value per beat of a READ and none for
a WRITE, all of them zero unless the result code is DONE. -/
abbrev State.ProbeLaw (s : State) : Prop :=
  ∀ q ∈ s.probe.request?,
    transferWellFormed q.access q.address q.beats q.writeData = true
      ∧ q.writeData.length = (if q.access = .write then q.beats else 0)
      ∧ ∀ d ∈ s.probe.result?,
          d.2.length = (if q.access = .read then q.beats else 0) ∧ (d.1 = .done ∨ d.2 = List.replicate d.2.length 0)

/-- A watch entry (R26, R27): an undefined one is as after power-on; a defined one holds a permitted
definition; a latch holds a matched beat exactly for a data-qualified entry. -/
abbrev EntryContentLaw (i : WatchIndex) (e : WatchEntry) : Prop :=
  (e.undefined = true → e = .powerOn)
    ∧ (e.undefined = false → e.definition.permitted i = true)
    ∧ (∀ l ∈ e.latch, l.matched.isSome = e.definition.qualifier.isSome)

/-- Every watch entry's content. -/
abbrev State.EntryLaw (s : State) : Prop := ∀ i : WatchIndex, EntryContentLaw i s.entries[i]

/-- While SYSRST_N is asserted the table and the stall list are empty, every slot is FREE, no hold timer
runs and no probe is in flight (R24, R99, R124, R155). -/
abbrev State.AssertionLaw (s : State) : Prop :=
  s.sysrst = true →
    (∀ t : Tag, s.records[t] = []) ∧ s.stalls = [] ∧ (∀ k : SlotIndex, s.slots[k] = .free)
      ∧ (∀ t : Tag, s.gates[t].timer = none) ∧ s.probe.inFlight = false

/-- The frame of a held response. -/
def HeldResponse.frame? : HeldResponse → Option (List Byte)
  | .none => Option.none
  | .preparing f => some f
  | .ready f => some f

/-- The service link. A held frame has a status other than 0FFh, the length of its payload, at most 160 bytes of
it, and its CRC (R160, R164). The request buffer holds the first 163 of the bytes counted (R159). A period is in
progress on a powered part only and, while CLK runs, with LCS_N low; fewer than 8 bits are short of a byte
(R157); and a request period has discarded the held response and keeps its bytes (R159). -/
abbrev State.LinkLaw (s : State) : Prop :=
  (∀ f ∈ s.held.frame?, 3 ≤ f.length ∧ f.length ≤ 163 ∧ f[0]? ≠ some 0xFF
      ∧ f[1]? = some (BitVec.ofNat 8 (f.length - 3)) ∧ crc8 f = 0x00)
    ∧ s.requestBuffer.length = min 163 s.requestCount
    ∧ ∀ p ∈ s.period, s.powered = true ∧ (s.clkRunning = true → s.lcsLow = true)
        ∧ p.bits.length < 8 ∧ p.shown < 8 ∧ p.index ≤ p.received.length
        ∧ (p.received ≠ [] → p.received[0]? ≠ some 0xFF →
            s.held = .none ∧ s.requestBuffer = p.received.take 163 ∧ s.requestCount = p.received.length)

/-- All laws together. -/
abbrev State.Sound (s : State) : Prop :=
  s.CapacityLaw ∧ s.GateLaw ∧ s.HandleLaw ∧ s.SelectorLaw ∧ s.StallLaw ∧ s.OfferLaw ∧ s.SlotLaw
    ∧ s.RecordLaw ∧ s.ProbeLaw ∧ s.EntryLaw ∧ s.AssertionLaw ∧ s.LinkLaw

/-! ## What the service link shows of a request -/

/-- `s` with the service link's own state taken from `t`. -/
def State.withLinkOf (s t : State) : State :=
  { s with held := t.held, requestBuffer := t.requestBuffer, requestCount := t.requestCount, ldo := t.ldo }

/-- The link has taken the request frame of `code` and `payload` and holds, in PREPARING, the response frame
of `status` and `data` (R159, R164, R165). -/
abbrev State.Responds (t : State) (code : Byte) (payload : List Byte) (status : Byte) (data : List Byte) :
    Prop :=
  t.held = .preparing (frame status data)
    ∧ t.requestBuffer = (frame code payload).take 163
    ∧ t.requestCount = payload.length + 3
    ∧ t.ldo = List.replicate (payload.length + 3) 0xFF

/-- The command is answered with a status other than OK and changes nothing outside the link (R169). -/
abbrev State.Refuses (s : State) (i : Instr) (status : Byte) : Prop :=
  ∃ t, exec i s = .next t ∧ t = s.withLinkOf t ∧ t.held = .preparing (frame status [])

end Sys2Proof.Machine
end

