-- ==== Sys2Proof/Certificates/Slice0/Obligations.lean ====
section
/-! DEFINITION. The statements about the WX-60. Each names the rules of spec/ it rests on. -/

section Statements

open Sys2Proof Sys2Proof.Machine

/-! ## Steps, power-on and reset -/

/-- A step takes the command at the front of the queue and runs it on the state with the queue's rest
(R163: the requests reach the part one at a time; log entry 2). -/
def Obligations.StepTakesFrontCommand : Prop :=
  ∀ (s : State) (c : Instr) (rest : List Instr), s.pending = c :: rest →
    step s = exec c { s with pending := rest }

/-- With no command waiting a step takes the pin change at the front; with none, an expiry that is due, a hold
timer's before a response timer's and a lower tag or slot first, and otherwise a microsecond passes for every
running timer; no time passes during power-on or while CLK is stopped (R70, R91, R177, R178; that a step does
this is the model's choice, log entries 4 and 19). -/
def Obligations.EmptyQueuePassesTime : Prop :=
  ∀ s : State, s.pending = [] →
    (∀ (change : PinChange) (rest : List PinChange), s.pins = change :: rest →
      step s = State.takePin change { s with pins := rest })
    ∧ (s.pins = [] →
    (s.takesEvents = false → step s = .next s)
    ∧ (s.takesEvents = true → ∀ tag : Tag, s.gates[tag].timer = some 0 →
        (∀ u : Tag, u < tag → s.gates[u].timer ≠ some 0) → step s = exec (.holdTimerExpiry tag) s)
    ∧ (s.takesEvents = true → (∀ tag : Tag, s.gates[tag].timer ≠ some 0) →
        ∀ k : SlotIndex, s.slots[k].isDue = true → (∀ j : SlotIndex, j < k → s.slots[j].isDue = false) →
          step s = exec (.responseTimerExpiry k) s)
    ∧ (s.takesEvents = true → (∀ tag : Tag, s.gates[tag].timer ≠ some 0) →
        (∀ k : SlotIndex, s.slots[k].isDue = false) →
        ∃ t, step s = .next t ∧ t = { s with gates := t.gates, slots := t.slots }
          ∧ (∀ tag : Tag, t.gates[tag] = { s.gates[tag] with timer := s.gates[tag].timer.map (· - 1) })
          ∧ (∀ (k : SlotIndex) (o : Occupant) (a : Access) (b : Nat) (l : BitVec 16) (m : Option Nat),
              s.slots[k] = .busy o a b l m → t.slots[k] = .busy o a b l (m.map (· - 1)))
          ∧ (∀ k : SlotIndex, s.slots[k].isBusy = false → t.slots[k] = s.slots[k])))

/-- Every command in every state ends in a next state with both queues and the levels of CLK and LCS_N as they
were. While power-on is in progress or CLK is stopped no command but those of power-on changes anything, so an
offered request waits and an answer is lost; power-on does not complete while CLK is stopped; and no
chip-select period is taken while LCS_N is low, for instance since power was applied. CLK stops, and runs again,
with every other part of the state as it was, so each timer goes on from the time it had left; a period whose
LCS_N has risen meanwhile then ends as at any other time (R163, R172, R177, R178; log entry 20). -/
def Obligations.EveryCommandIsTaken : Prop :=
  (∀ (i : Instr) (s : State), ∃ t, exec i s = .next t
    ∧ t.pending = s.pending ∧ t.pins = s.pins ∧ t.clkRunning = s.clkRunning ∧ t.lcsLow = s.lcsLow
    ∧ (s.powered = false ∨ s.clkRunning = false → i ≠ .powerOnBegin → (∀ h l : Bool, i ≠ .powerOn h l) → t = s)
    ∧ (s.clkRunning = false → (∀ h l : Bool, i = .powerOn h l → t = s))
    ∧ (s.lcsLow = true → i.requestCode ≠ none ∨ (∃ b, i = .badFrame b ∨ i = .badRequest b)
        ∨ (∃ n r, i = .readPeriod n r) → t = s))
  ∧ ∀ s : State, State.takePin .clkStop s = .next { s with clkRunning := false }
    ∧ (s.clkRunning = true ∨ s.period = none ∨ s.lcsLow = true →
        State.takePin .clkRun s = .next { s with clkRunning := true })
    ∧ (s.powered = true → s.clkRunning = false → s.lcsLow = false → State.takePin .clkRun s =
        State.takePin .lcsRise { s with clkRunning := true, lcsLow := true })

/-- The completion of power-on gives every register its power-on value, with HOLDBOOT and SYSRST_N sampled,
and produces no event; no chip-select period is in progress, LDO is undriven, and LCS_N is at its level, so that
a link with LCS_N low takes no period until it has risen: an edge of LCK changes nothing, and the rising edge
its level alone (R98, R120, R142 whole; also R22, R48, R77, R79, R156, R172, R174, R176, R177). Power-on
completes with CLK running. The beginning of a power-on shows room 0 on every lane, no offer, an undriven
ATTN_N and LDO and no held response (R177). -/
def Obligations.PowerOnValues : Prop :=
  (∀ (holdboot low : Bool) (s : State), s.clkRunning = true → ∃ t, exec (.powerOn holdboot low) s = .next t
    ∧ t.clkRunning = true ∧ t.lcsLow = s.lcsLow ∧ t.period = none ∧ t.ldoPin = none
    ∧ (t.lcsLow = true → t.takesPeriods = false ∧ (∀ ldi : Bool, State.takePin (.lckRise ldi) t = .next t)
        ∧ State.takePin .lckFall t = .next t ∧ State.takePin .lcsRise t = .next { t with lcsLow := false })
    ∧ t.pending = s.pending ∧ t.pins = s.pins ∧ t.powered = true ∧ t.sysrst = low
    ∧ t.arrival = 0 ∧ t.offer = none ∧ t.lastTag = 7
    ∧ (∀ tag : Tag, t.records[tag] = [] ∧ t.roomIndication tag = 4
        ∧ t.gates[tag] = ⟨if holdboot then .closed .boot else .opened, 0, .pass, none⟩)
    ∧ (∀ i : WatchIndex, t.entries[i] =
        ⟨true, ⟨0, 0, .either, 0, .any, none, none, false, none, .note, .none, false⟩, .disabled, 0, 0, none⟩)
    ∧ (∀ k : SlotIndex, t.slots[k] = .free) ∧ t.responseLimit = 10000 ∧ t.arbiter = 8
    ∧ t.searchOrder.head? = some 0
    ∧ t.store = [] ∧ t.stalls = [] ∧ t.lost = 0 ∧ t.sequence = 0
    ∧ t.waitsPending = [] ∧ t.waitsComplete = [] ∧ (∀ handle : Byte, t.handleInUse handle = false)
    ∧ t.enableCompletions = true ∧ t.enableStored = false
    ∧ t.completionsHold = false ∧ t.storedHolds = false ∧ t.attn = false ∧ t.attnDrivenLow = false
    ∧ t.probe = .idle ∧ t.held = .none)
  ∧ ∀ s : State, ∃ t, exec .powerOnBegin s = .next t
    ∧ t.pending = s.pending ∧ t.powered = false ∧ (∀ tag : Tag, t.roomIndication tag = 0)
    ∧ t.offeredResponse = none ∧ t.attnDrivenLow = false ∧ t.held = .none
    ∧ t.period = none ∧ t.ldoPin = none ∧ t.lcsLow = s.lcsLow ∧ t.clkRunning = s.clkRunning

/-- The reset state is the state at the completion of power-on with HOLDBOOT and SYSRST_N as log entry 1
chooses them, and it meets every law of the part. -/
def Obligations.ResetMeetsTheLaws : Prop :=
  State.reset.Sound ∧ State.reset.pending = []
    ∧ ∀ s : State, s.pending = [] → s.pins = [] → s.clkRunning = true → s.lcsLow = false →
      exec (.powerOn false false) s = .next State.reset

/-- A taken assertion of SYSRST_N discards the transit table, returns arrival counter, response channel,
slots and arbiter to their power-on values, sets every gate by HOLDBOOT with limit and policy kept, counts
every stalled event as lost, ends a probe in flight with TARGET-RESET and zero data, and places its
PROBE-DONE event and then the TARGET-RESET event; everything else is kept (R20, R23, R77, R78, R99, R121,
R122, R143, R155, R50, R172). A taken release ends the assertion alone (R175). -/
def Obligations.SystemReset : Prop :=
  (∀ (holdboot : Bool) (s : State), s.takesEvents = true → s.sysrst = false →
    ∃ t u v, exec (.sysrstAssertion holdboot) s = .next t
      ∧ t.sysrst = true ∧ t.arrival = 0 ∧ t.offer = none ∧ t.lastTag = 7 ∧ t.arbiter = 8 ∧ t.stalls = []
      ∧ (∀ tag : Tag, t.records[tag] = [] ∧ t.gates[tag] =
          ⟨if holdboot then .closed .boot else .opened, s.gates[tag].limit, s.gates[tag].policy, none⟩)
      ∧ (∀ k : SlotIndex, t.slots[k] = .free)
      ∧ (∀ q, s.probe = .queued q ∨ s.probe = .atMemory q →
          t.probe = .done q .targetReset (if q.access = .read then List.replicate q.beats 0 else []))
      ∧ (s.probe.inFlight = false → t.probe = s.probe)
      ∧ u = { s with stalls := [], lost := BitVec.ofNat 8 (min 255 (s.lost.toNat + s.stalls.length)) }
      ∧ v = (if s.probe.inFlight then u.place (.probeDone .targetReset) none else u).place .targetReset none
      ∧ t = { s with
          sysrst := true, arrival := 0, offer := none, lastTag := 7, arbiter := 8, stalls := [],
          records := t.records, gates := t.gates, slots := t.slots, probe := t.probe,
          store := v.store, lost := v.lost, sequence := v.sequence,
          waitsPending := v.waitsPending, waitsComplete := v.waitsComplete })
  ∧ ∀ s : State, s.takesEvents = true → exec .sysrstRelease s = .next { s with sysrst := false }

/-- CLEAR gives the watch table, the gates' settings, the response limit, the event unit and the wait table
their power-on values, clears every stall mark, opens every gate and lets each tag's records pass from the
old end; the response channel keeps its offer or chooses by its rotation; the rest of the part is left as it is,
and the request is answered OK with an empty payload (R20, R25, R49, R80, R100, R123, R144, R156, R171). -/
def Obligations.ClearRestoresConfiguration : Prop :=
  ∀ s : State, s.takesPeriods = true → ∃ t, exec .clear s = .next t ∧ t.Responds 0x02 [] 0x00 []
    ∧ (∀ i : WatchIndex, t.entries[i] = .powerOn) ∧ t.responseLimit = 10000
    ∧ t.store = [] ∧ t.stalls = [] ∧ t.lost = 0 ∧ t.sequence = 0
    ∧ t.waitsPending = [] ∧ t.waitsComplete = [] ∧ t.enableCompletions = true ∧ t.enableStored = false
    ∧ (∀ tag : Tag,
        let run := passRun .opened (s.records[tag].map fun r => { r with stalled := false })
        t.records[tag] = run.2 ∧ t.gates[tag].state = run.1 ∧ t.gates[tag].limit = 0
          ∧ t.gates[tag].policy = .pass ∧ t.gates[tag].timer = none)
    ∧ t = ({ s with
        entries := t.entries, responseLimit := t.responseLimit, store := t.store, stalls := t.stalls,
        lost := t.lost, sequence := t.sequence, waitsPending := t.waitsPending,
        waitsComplete := t.waitsComplete, enableCompletions := t.enableCompletions,
        enableStored := t.enableStored, records := t.records, gates := t.gates,
        offer := ({ t with offer := s.offer } : State).offerNext.offer } : State).withLinkOf t

/-! ## Transactions in transit -/

/-- The tests of R5, for requests and (R146) probes: the address a multiple of 8, 1 to 16 beats, every byte
in one 4096-byte block, and for a WRITE a byte enabled in every beat. -/
def Obligations.WellFormednessTests : Prop :=
  ∀ (access : Access) (address : Addr) (beats : Nat) (data : List WriteBeat),
    transferWellFormed access address beats data = true ↔
      8 ∣ address.toNat ∧ 1 ≤ beats ∧ beats ≤ 16
        ∧ (∃ block, ∀ j, j < 8 * beats →
            4096 * block ≤ address.toNat + j ∧ address.toNat + j < 4096 * (block + 1))
        ∧ (access = .write → ∀ b ∈ data, ∃ k, k < 8 ∧ b.enables.getLsbD k = true)

/-- A malformed request becomes an ANSWERED record with code MALFORMED at the young end of its tag's list,
without data or enables, takes the next arrival number, its lossy MALFORMED event is placed, and the response
channel keeps its offer or chooses by its rotation (R4, R7, R9, R16, R20; a lane carries at most 31 beats, log
entry 13). -/
def Obligations.MalformedAcceptance : Prop :=
  ∀ (s : State) (tag : Tag) (privilege : Privilege) (address : Addr) (body : RequestBody),
    s.takesEvents = true → s.sysrst = false → s.records[tag].length < 4 →
    (Instr.acceptance tag privilege address body).wellFormed = true →
    transferWellFormed (bodyAccess body) address (bodyBeats body).toNat (bodyData body) = false →
    let beats := bodyBeats body
    let zeros : List Beat := if bodyAccess body = .read ∧ 1 ≤ beats.toNat ∧ beats.toNat ≤ 16
      then List.replicate beats.toNat 0 else []
    let r : TransitRecord :=
      { id := s.nextId, privilege, access := bodyAccess body, address, beats, writeData := [],
        arrival := s.arrival, phase := .answered ⟨.malformed, zeros⟩, stalled := false,
        decision := .malformed, fired := [], spent := false }
    let u := { s with
      records := s.records.set tag (s.records[tag] ++ [r])
      arrival := s.arrival + 1
      nextId := s.nextId + 1 }
    exec (.acceptance tag privilege address body) s = .next
      (u.place (.malformed ⟨tag, privilege, bodyAccess body, address, beats, s.arrival⟩) none).offerNext

/-- A well-formed request becomes a record at the young end of its tag's list with the decision and fired
list of its evaluation: REFUSED at once, stalled when its lossless event finds no place, READY when it meets
an open or stepping gate as an unstalled head without a hold, and GATED otherwise; the gate moves as the
record's hold or its passage asks, the hold timer follows, the response channel keeps its offer or chooses by
its rotation, and nothing else changes (R4, R6, R9, R20, R32, R39, R52 to R55, R70; a lane carries at most 31
beats, log entry 13). -/
def Obligations.WellFormedAcceptance : Prop :=
  ∀ (s : State) (tag : Tag) (privilege : Privilege) (address : Addr) (body : RequestBody),
    s.GateLaw → s.StallLaw → s.takesEvents = true → s.sysrst = false → s.records[tag].length < 4 →
    (Instr.acceptance tag privilege address body).wellFormed = true →
    transferWellFormed (bodyAccess body) address (bodyBeats body).toNat (bodyData body) = true →
    let fresh : TransitRecord :=
      { id := s.nextId, privilege, access := bodyAccess body, address, beats := bodyBeats body,
        writeData := bodyData body, arrival := s.arrival, phase := .gated, stalled := false,
        decision := .none, fired := [], spent := false }
    let judge := WatchEntry.judgeRequest tag fresh
    let fired := firedList s.entries judge
    let decision := decisionOf s.entries fired
    let event := Event.watch (fresh.transaction tag) (firingOf s.entries judge decision.applied)
    let link : Option RecordLink := if reportsLossless s.entries fired then some ⟨tag, s.nextId⟩ else none
    let placed := if reports s.entries fired then s.place event link else s
    let considered := decision ≠ .refuse ∧ s.gates[tag].state.isClosed = false
      ∧ hasGated s.records[tag] = false
    ∃ t r, exec (.acceptance tag privilege address body) s = .next t
      ∧ t.records[tag] = s.records[tag] ++ [r]
      ∧ (∀ u : Tag, u ≠ tag → t.records[u] = s.records[u] ∧ t.gates[u] = s.gates[u])
      ∧ r = { fresh with decision, fired, phase := r.phase, stalled := r.stalled }
      ∧ (r.stalled = true ↔ reportsLossless s.entries fired = true ∧ 32 ≤ s.store.length
          ∧ ∀ w ∈ s.waitsPending, w.selector.accepts event = false)
      ∧ (decision = .refuse → r.phase = .answered ⟨.refused,
          if bodyAccess body = .read then List.replicate (bodyBeats body).toNat 0 else []⟩)
      ∧ (decision ≠ .refuse → r.phase = .gated ∨ r.phase = .ready)
      ∧ (r.phase = .ready ↔ considered ∧ r.stalled = false ∧ decision ≠ .holdBefore)
      ∧ (considered → r.stalled = false → decision = .holdBefore →
          t.gates[tag].state = .closed .watchBefore)
      ∧ (r.phase = .ready → t.gates[tag].state = s.gates[tag].state.afterPassage r)
      ∧ (¬ (considered ∧ r.stalled = false) → t.gates[tag].state = s.gates[tag].state)
      ∧ t.gates[tag].limit = s.gates[tag].limit ∧ t.gates[tag].policy = s.gates[tag].policy
      ∧ t.gates[tag].timer = (if t.gates[tag].state.isClosed ∧ hasGated t.records[tag] ∧ s.gates[tag].limit ≠ 0
          then some (s.gates[tag].timer.getD (s.gates[tag].limit.toNat * 100)) else none)
      ∧ t = { s with
          records := t.records, gates := t.gates,
          offer := ({ t with offer := s.offer } : State).offerNext.offer,
          entries := evaluateEntries s.entries judge (fresh.transaction tag),
          arrival := s.arrival + 1, nextId := s.nextId + 1,
          store := placed.store, stalls := placed.stalls, lost := placed.lost,
          sequence := placed.sequence, waitsPending := placed.waitsPending,
          waitsComplete := placed.waitsComplete }

/-- What cannot take place leaves the part as it is: an acceptance without room or during an assertion of
SYSRST_N (R3, R24), a delivery with no offered response (R19), a grant without a FREE slot or a contender
(R83), an expiry of a stopped timer (R70, R91), an assertion while one is in force (R175), and the completion
of a response that is not being built (R165). That such a command changes nothing is log entry 6. -/
def Obligations.OccurrencesThatCannotHappen : Prop :=
  ∀ s : State,
    (∀ (tag : Tag) (privilege : Privilege) (address : Addr) (body : RequestBody),
      s.sysrst = true ∨ 4 ≤ s.records[tag].length → exec (.acceptance tag privilege address body) s = .next s)
    ∧ (s.offer = none → exec .delivery s = .next s)
    ∧ ((∀ k : SlotIndex, s.slots[k] ≠ .free) ∨ (∀ c : Contender, s.contends c = false) →
        exec .grant s = .next s)
    ∧ (∀ tag : Tag, s.gates[tag].timer = none → exec (.holdTimerExpiry tag) s = .next s)
    ∧ (∀ k : SlotIndex, (∀ (o : Occupant) (a : Access) (b : Nat) (l : BitVec 16) (m : Nat),
        s.slots[k] ≠ .busy o a b l (some m)) → exec (.responseTimerExpiry k) s = .next s)
    ∧ (s.sysrst = true → ∀ holdboot : Bool, exec (.sysrstAssertion holdboot) s = .next s)
    ∧ ((∀ f, s.held ≠ .preparing f) → exec .responseReady s = .next s)

/-- The initiator takes the offered response: it is transferred with its tag, code and data, its record is
freed and the room rises, its tag is the tag last taken, and the next response is offered (R2, R9, R19,
R20). -/
def Obligations.DeliveryFreesRecord : Prop :=
  ∀ (s : State) (tag : Tag) (r : TransitRecord) (rest : List TransitRecord) (a : Answer),
    s.takesEvents = true → s.offer = some tag → s.records[tag] = r :: rest → r.phase = .answered a →
    r.stalled = false →
    ∃ t, exec .delivery s = .next t ∧ t.lastResponse = some ⟨tag, a.code, a.data⟩ ∧ t.lastTag = tag
      ∧ t.records[tag] = rest ∧ (∀ u : Tag, u ≠ tag → t.records[u] = s.records[u])
      ∧ (rest.length < 4 → t.room tag = s.room tag + 1)
      ∧ t = { s with
          records := t.records, lastResponse := t.lastResponse, lastTag := t.lastTag,
          offer := { t with offer := none }.offerNext.offer }

/-- The response channel keeps an offered response, and otherwise offers the deliverable response of the
first tag after the tag last taken, going on from tag 7 to tag 0 (R20). -/
def Obligations.ResponseRotation : Prop :=
  ∀ s : State,
    (∀ tag : Tag, s.offer = some tag → s.offerNext = s)
    ∧ (s.offer = none → ∀ n : Fin 8, (s.deliverable (s.lastTag + 1 + n)).isSome = true →
        (∀ m : Fin 8, m < n → s.deliverable (s.lastTag + 1 + m) = none) →
        s.offerNext = { s with offer := some (s.lastTag + 1 + n) })
    ∧ (s.offer = none → (∀ tag : Tag, s.deliverable tag = none) → s.offerNext = s)

/-! ## The watch table -/

/-- When an entry matches. At request phase an entry without a qualifier matches when it is LIVE, its tag set
and filters pass the record, and a byte of a READ, or an enabled byte of a WRITE, lies in its range; a
qualified WRITE entry matches with the lowest beat that has an enabled byte in the range and agrees with the
value under the mask, bytes that are not enabled taken as 00h; a qualified READ entry does not match. At
response phase a qualified READ entry matches with the lowest beat with a byte in the range and data that
agrees; every other entry is left out (R29, R33, R34, R35, R41, R42). -/
def Obligations.MatchingByAnEntry : Prop :=
  ∀ (e : WatchEntry) (tag : Tag) (r : TransitRecord) (data : List Beat),
    e.definition.base.toNat ≤ e.definition.limit.toNat →
    let d := e.definition
    let inRange := fun n : Nat => d.base.toNat ≤ n ∧ n ≤ d.limit.toNat
    let passes := e.state = .live ∧ d.tags.getLsbD tag.val = true
      ∧ (d.privilege = .any ∨ d.privilege = .user ∧ r.privilege = .user
          ∨ d.privilege = .supervisor ∧ r.privilege = .supervisor)
    let agrees := d.access = .either ∨ d.access = .read ∧ r.access = .read
      ∨ d.access = .write ∧ r.access = .write
    let enabledByte := fun (b : Nat) (w : WriteBeat) =>
      ∃ k, k < 8 ∧ w.enables.getLsbD k = true ∧ inRange (r.address.toNat + 8 * b + k)
    let masked := fun w : WriteBeat => fun i : Nat => w.data.getLsbD i && w.enables.getLsbD (i / 8)
    let overlap := (r.access = .read → ∃ j, j < 8 * r.beats.toNat ∧ inRange (r.address.toNat + j))
      ∧ (r.access = .write → ∃ b w, r.writeData[b]? = some w ∧ enabledByte b w)
    (d.qualifier = none →
      (e.judgeRequest tag r = .hit none ↔ passes ∧ agrees ∧ overlap)
      ∧ (e.judgeRequest tag r = .noMatch ↔ ¬ (passes ∧ agrees ∧ overlap))
      ∧ e.judgeResponse tag r data = .noMatch)
    ∧ (∀ q, d.qualifier = some q → d.access = .write →
        let test := fun (b : Nat) (w : WriteBeat) => enabledByte b w
          ∧ ∀ i, i < 64 → q.mask.getLsbD i = true → masked w i = q.value.getLsbD i
        (∀ m, e.judgeRequest tag r = .hit m ↔ passes ∧ r.access = .write
          ∧ ∃ b w v, m = some ⟨b, v⟩ ∧ r.writeData[b]? = some w ∧ test b w
            ∧ (∀ i, i < 64 → v.getLsbD i = masked w i)
            ∧ ∀ c x, c < b → r.writeData[c]? = some x → ¬ test c x)
        ∧ e.judgeResponse tag r data = .noMatch)
    ∧ (∀ q, d.qualifier = some q → d.access = .read →
        let test := fun (b : Nat) (v : Beat) => (∃ k, k < 8 ∧ inRange (r.address.toNat + 8 * b + k))
          ∧ ∀ i, i < 64 → q.mask.getLsbD i = true → v.getLsbD i = q.value.getLsbD i
        e.judgeRequest tag r = .noMatch
        ∧ ∀ m, e.judgeResponse tag r data = .hit m ↔ passes
          ∧ ∃ b v, m = some ⟨b, v⟩ ∧ data[b]? = some v ∧ test b v
            ∧ ∀ c x, c < b → data[c]? = some x → ¬ test c x)

/-- What an evaluation does to one entry. Only LIVE entries are judged; a match writes the latch and uses up
a skip or, with none left, fires: the fire count rises and stays at 65535, and a once-entry becomes SPENT.
A DORMANT entry that a fired entry arms becomes LIVE and keeps the rest. The fired list is ascending and
holds exactly the entries that fired (R29, R32, R36, R37, R38). -/
def Obligations.EvaluationOfAnEntry : Prop :=
  (∀ (e : WatchEntry) (tag : Tag) (r : TransitRecord) (data : List Beat), e.state ≠ .live →
    e.judgeRequest tag r = .noMatch ∧ e.judgeResponse tag r data = .noMatch)
  ∧ ∀ (entries : Vector WatchEntry 16) (judge : WatchEntry → Judgement) (x : Transaction),
    (∀ e : WatchEntry, e.state ≠ .live → judge e = .noMatch) →
    (firedList entries judge).Pairwise (· < ·)
    ∧ ∀ i : WatchIndex,
      let e := entries[i]
      let e' := (evaluateEntries entries judge x)[i]
      let armed := e.state = .dormant
        ∧ ∃ j ∈ firedList entries judge, entries[j].definition.arms = some i
      (i ∈ firedList entries judge ↔ e.skips = 0 ∧ ∃ m, judge e = .hit m)
      ∧ (armed → e' = { e with state := .live })
      ∧ (judge e = .noMatch → ¬ armed → e' = e)
      ∧ (∀ m, judge e = .hit m → e.skips ≠ 0 →
          e' = { e with latch := some ⟨x, m⟩, skips := e.skips - 1 })
      ∧ (∀ m, judge e = .hit m → e.skips = 0 →
          e' = { e with
            latch := some ⟨x, m⟩
            fires := BitVec.ofNat 16 (min 65535 (e.fires.toNat + 1))
            state := if e.definition.once then .spent else e.state })

/-- The decision is the strongest action among the fired entries, in the order REFUSE, HOLD-BEFORE,
HOLD-AFTER, NOTE, and NONE when none fired, and that action is the action applied of the WATCH event; an event is
produced when a fired entry reports, lossless when one reports LOSSLESS; and the matched beat it carries is that
of the lowest-indexed data-qualified entry that fired (R38, R39, R40, R43, R44). -/
def Obligations.DecisionIsStrongestAction : Prop :=
  ∀ (entries : Vector WatchEntry 16) (judge : WatchEntry → Judgement),
    let fired := firedList entries judge
    let has := fun a : Action => ∃ i ∈ fired, entries[i].definition.action = a
    (decisionOf entries fired = .refuse ↔ has .refuse)
    ∧ (decisionOf entries fired = .holdBefore ↔ has .holdBefore ∧ ¬ has .refuse)
    ∧ (decisionOf entries fired = .holdAfter ↔ has .holdAfter ∧ ¬ has .refuse ∧ ¬ has .holdBefore)
    ∧ (decisionOf entries fired = .note ↔ fired ≠ [] ∧ ∀ i ∈ fired, entries[i].definition.action = .note)
    ∧ (decisionOf entries fired = .none ↔ fired = [])
    ∧ ((decisionOf entries fired).applied = .refuse ↔ has .refuse)
    ∧ ((decisionOf entries fired).applied = .holdBefore ↔ has .holdBefore ∧ ¬ has .refuse)
    ∧ ((decisionOf entries fired).applied = .holdAfter ↔ has .holdAfter ∧ ¬ has .refuse ∧ ¬ has .holdBefore)
    ∧ ((decisionOf entries fired).applied = .note ↔ ¬ has .refuse ∧ ¬ has .holdBefore ∧ ¬ has .holdAfter)
    ∧ (responseAction entries fired = .holdAfter ↔ has .holdAfter)
    ∧ (responseAction entries fired = .note ↔ ¬ has .holdAfter)
    ∧ (reports entries fired = true ↔ ∃ i ∈ fired, entries[i].definition.report ≠ .none)
    ∧ (reportsLossless entries fired = true ↔ ∃ i ∈ fired, entries[i].definition.report = .lossless)
    ∧ ∀ a : Action,
      let f := firingOf entries judge a
      f.fired = fired ∧ f.action = a ∧ (f.gateClosed = true ↔ a = .holdBefore ∨ a = .holdAfter)
      ∧ ((∀ i ∈ fired, entries[i].definition.qualifier = none) → f.matched = none)
      ∧ ∀ i ∈ fired, entries[i].definition.qualifier ≠ none →
          (∀ j ∈ fired, entries[j].definition.qualifier ≠ none → i ≤ j) →
          f.matched = (match judge entries[i] with
            | .hit m => m
            | .noMatch => none)

/-- A WATCH-WRITE is accepted exactly when every field holds a listed value and the definition is permitted;
it then replaces the entry whole: defined, in its start state, with the skip count or 0, fire count 0 and no
latch, and nothing else changes (R27, R28, R46; field codes 10.3, 10.4). -/
def Obligations.WatchWriteReplacesEntry : Prop :=
  (∀ (raw : RawDefinition) (d : Definition), definitionOf raw = some d ↔
    raw.base = d.base ∧ raw.limit = d.limit ∧ raw.access = d.access.code ∧ raw.tags = d.tags
      ∧ raw.privilege = d.privilege.code ∧ raw.action = d.action.code ∧ raw.report = d.report.code
      ∧ raw.start = (if d.startLive then 0x02 else 0x01) ∧ raw.once = (if d.once then 0x01 else 0x00)
      ∧ raw.markHigh = 0 ∧ raw.qualifier = d.qualifier ∧ raw.skip = d.skip
      ∧ raw.arms = d.arms.map fun i => BitVec.ofNat 8 i.val)
  ∧ (∀ (i : WatchIndex) (d : Definition), d.permitted i = true ↔
    d.base.toNat ≤ d.limit.toNat ∧ d.tags ≠ 0 ∧ ¬ (d.qualifier ≠ none ∧ d.access = .either)
      ∧ d.arms ≠ some i
      ∧ ¬ (d.access = .read ∧ d.qualifier ≠ none ∧ (d.action = .holdBefore ∨ d.action = .refuse)))
  ∧ ∀ (s : State) (i : WatchIndex) (raw : RawDefinition) (d : Definition), s.takesPeriods = true →
    definitionOf raw = some d → d.permitted i = true →
    ∃ t, exec (.watchWrite (byteOf i.val) raw) s = .next t
      ∧ t.Responds 0x10 (byteOf i.val :: raw.bytes) 0x00 []
      ∧ t.entries[i] = ⟨false, d, if d.startLive then .live else .dormant, d.skip.getD 0, 0, none⟩
      ∧ (∀ j : WatchIndex, j ≠ i → t.entries[j] = s.entries[j])
      ∧ t = ({ s with entries := t.entries } : State).withLinkOf t

/-- WATCH-STATE on a defined entry sets its state as the parameter says and keeps definition, fire count and
latch; REARM also sets the remaining skips to the skip count (0 where it is absent, log entry 18); nothing
else changes. A parameter that is none of the four is refused with BAD-VALUE (R30, R31, R46). -/
def Obligations.WatchStateSetsEntry : Prop :=
  (∀ (s : State) (i : WatchIndex), s.takesPeriods = true → s.entries[i].undefined = false →
    ∀ (c : Instr) (parameter : Byte) (state : EntryState) (skips : BitVec 16),
      (c = .disable (byteOf i.val) ∧ parameter = 0x00 ∧ state = .disabled ∧ skips = s.entries[i].skips
        ∨ c = .enableLive (byteOf i.val) ∧ parameter = 0x01 ∧ state = .live ∧ skips = s.entries[i].skips
        ∨ c = .enableDormant (byteOf i.val) ∧ parameter = 0x02 ∧ state = .dormant
          ∧ skips = s.entries[i].skips
        ∨ c = .rearm (byteOf i.val) ∧ parameter = 0x03
          ∧ state = (if s.entries[i].definition.startLive then .live else .dormant)
          ∧ skips = s.entries[i].definition.skip.getD 0) →
      ∃ t, exec c s = .next t ∧ t.Responds 0x12 [byteOf i.val, parameter] 0x00 []
        ∧ t.entries[i] = { s.entries[i] with state := state, skips := skips }
        ∧ (∀ j : WatchIndex, j ≠ i → t.entries[j] = s.entries[j])
        ∧ t = ({ s with entries := t.entries } : State).withLinkOf t)
  ∧ ∀ (s : State) (i : WatchIndex) (parameter : Byte), s.takesPeriods = true → 4 ≤ parameter.toNat →
    ∃ t, exec (.watchState (byteOf i.val) parameter) s = .next t
      ∧ t.Responds 0x12 [byteOf i.val, parameter] 0x04 [] ∧ t = s.withLinkOf t

/-! ## Gates -/

/-- The consideration of a head. A stalled head, a closed gate or a tag without GATED records changes
neither records nor gate state; an unspent HOLD-BEFORE closes an open or stepping gate with WATCH-BEFORE; a
HOLD-AFTER head passes alone and closes it with WATCH-AFTER; at an open gate with no stall and no hold every
GATED record passes. Afterwards the law of R53 holds and the timer runs as R70 says (R52, R53, R55). -/
def Obligations.ConsiderationOfTheHead : Prop :=
  ∀ (s : State) (tag : Tag),
    let t := s.consider tag
    (GatePassageLaw t.gates[tag] t.records[tag])
    ∧ (t.gates[tag].timer.isSome = (t.gates[tag].state.isClosed && hasGated t.records[tag]
        && t.gates[tag].limit != 0))
    ∧ (∀ u : Tag, u ≠ tag → t.gates[u] = s.gates[u] ∧ t.records[u] = s.records[u])
    ∧ t = { s with gates := t.gates, records := t.records }
    ∧ t.gates[tag].limit = s.gates[tag].limit ∧ t.gates[tag].policy = s.gates[tag].policy
    ∧ ((hasGated s.records[tag] = false ∨ s.gates[tag].state.isClosed = true) →
        t.records[tag] = s.records[tag] ∧ t.gates[tag].state = s.gates[tag].state)
    ∧ (∀ (pre post : List TransitRecord) (h : TransitRecord), s.records[tag] = pre ++ h :: post →
        hasGated pre = false → h.phase = .gated → s.gates[tag].state.isClosed = false →
        (h.stalled = true → t.records[tag] = s.records[tag] ∧ t.gates[tag].state = s.gates[tag].state)
        ∧ (h.stalled = false → h.decision = .holdBefore → h.spent = false →
            t.records[tag] = s.records[tag] ∧ t.gates[tag].state = .closed .watchBefore)
        ∧ (h.stalled = false → h.decision = .holdAfter →
            t.records[tag] = pre ++ { h with phase := .ready } :: post
              ∧ t.gates[tag].state = .closed .watchAfter))
    ∧ (s.gates[tag].state = .opened →
        (∀ r ∈ s.records[tag], r.phase = .gated →
          r.stalled = false ∧ r.decision ≠ .holdAfter ∧ (r.decision = .holdBefore → r.spent = true)) →
        t.gates[tag].state = .opened
          ∧ t.records[tag] = s.records[tag].map fun r => if r.isGated then { r with phase := .ready } else r)

/-- TAG-STEP counts passages alone: with no stall and no hold in the way, a gate STEPPING with n passes the
oldest n GATED records, and closes with STEP-DONE behind the n-th or keeps the steps that are left (R54). -/
def Obligations.StepsCountPassages : Prop :=
  ∀ (s : State) (tag : Tag) (n : BitVec 16), s.gates[tag].state = .stepping n → n ≠ 0 →
    (∀ r ∈ s.records[tag], r.phase = .gated →
      r.stalled = false ∧ r.decision ≠ .holdAfter ∧ (r.decision = .holdBefore → r.spent = true)) →
    let t := s.consider tag
    let waiting := (s.records[tag].filter (·.isGated)).length
    ∃ front back : List TransitRecord, s.records[tag] = front ++ back
      ∧ (front.filter (·.isGated)).length = min n.toNat waiting
      ∧ t.records[tag] = (front.map fun r => if r.isGated then { r with phase := .ready } else r) ++ back
      ∧ (n.toNat ≤ waiting → t.gates[tag].state = .closed .stepDone)
      ∧ (waiting < n.toNat → t.gates[tag].state = .stepping (n - BitVec.ofNat 16 waiting))

/-- TAG-FREEZE closes the gate with cause FREEZE from any state, and a timer that runs goes on; TAG-LIMIT
sets limit and policy and restarts, starts or stops the timer by the new limit; nothing else changes (R51,
R60, R70, R71). -/
def Obligations.FreezeAndLimitSetGate : Prop :=
  ∀ (s : State) (tag : Tag), s.takesPeriods = true →
    (∃ t, exec (.tagFreeze (byteOf tag.val)) s = .next t ∧ t.Responds 0x21 [byteOf tag.val] 0x00 []
      ∧ t.gates[tag] = { s.gates[tag] with
          state := .closed .freeze
          timer := if hasGated s.records[tag] ∧ s.gates[tag].limit ≠ 0
            then some (s.gates[tag].timer.getD (s.gates[tag].limit.toNat * 100)) else none }
      ∧ (∀ u : Tag, u ≠ tag → t.gates[u] = s.gates[u])
      ∧ t = ({ s with gates := t.gates } : State).withLinkOf t)
    ∧ ∀ (limit : BitVec 16) (code : Byte) (policy : ExpiryPolicy),
      code = 0x00 ∧ policy = .pass ∨ code = 0x01 ∧ policy = .withdraw →
      ∃ t, exec (.tagLimit (byteOf tag.val) limit code) s = .next t
        ∧ t.Responds 0x25 (byteOf tag.val :: u16Bytes limit ++ [code]) 0x00 []
        ∧ t.gates[tag] = { s.gates[tag] with
            limit := limit
            policy := policy
            timer := if s.gates[tag].state.isClosed ∧ hasGated s.records[tag] ∧ limit ≠ 0
              then some (limit.toNat * 100) else none }
        ∧ (∀ u : Tag, u ≠ tag → t.gates[u] = s.gates[u])
        ∧ t = ({ s with gates := t.gates } : State).withLinkOf t

/-- TAG-RESUME on an OPEN gate changes nothing. Otherwise TAG-RESUME makes the gate OPEN and TAG-STEP makes
it STEPPING with n, the timer stops, and the head is considered, with every passage that follows from it. At cause
WATCH-BEFORE the head's hold is spent first, so an unstalled head passes; at any other cause an unstalled head
with an unspent HOLD-BEFORE closes the gate again at once with WATCH-BEFORE and stays (R52, R56, R61, R62, R63,
R70). -/
def Obligations.ResumeAndStepRelease : Prop :=
  ∀ (s : State) (tag : Tag) (c : Instr) (code : Byte) (payload : List Byte) (state : GateState),
    s.takesPeriods = true →
    (c = .tagResume (byteOf tag.val) ∧ code = 0x22 ∧ payload = [byteOf tag.val] ∧ state = .opened
      ∨ ∃ n : BitVec 16, n ≠ 0 ∧ c = .tagStep (byteOf tag.val) n ∧ code = 0x23
        ∧ payload = byteOf tag.val :: u16Bytes n ∧ state = .stepping n) →
    ∃ t, exec c s = .next t ∧ t.Responds code payload 0x00 []
      ∧ t = ({ s with gates := t.gates, records := t.records } : State).withLinkOf t
      ∧ (∀ u : Tag, u ≠ tag → t.gates[u] = s.gates[u] ∧ t.records[u] = s.records[u])
      ∧ (state = .opened → s.gates[tag].state = .opened →
          t.gates[tag] = s.gates[tag] ∧ t.records[tag] = s.records[tag])
      ∧ (state ≠ .opened ∨ s.gates[tag].state ≠ .opened →
          s.gates[tag].state ≠ .closed .watchBefore ∨ hasGated s.records[tag] = false →
          let u := ({ s with
            gates := s.gates.set tag { s.gates[tag] with state := state, timer := none } } : State).consider tag
          t.gates[tag] = u.gates[tag] ∧ t.records[tag] = u.records[tag])
      ∧ ∀ (pre post : List TransitRecord) (h : TransitRecord), s.records[tag] = pre ++ h :: post →
          hasGated pre = false → h.phase = .gated →
          (s.gates[tag].state = .closed .watchBefore →
            let u := ({ s with
              gates := s.gates.set tag { s.gates[tag] with state := state, timer := none }
              records := s.records.set tag (pre ++ { h with spent := true } :: post) } : State).consider tag
            t.gates[tag] = u.gates[tag] ∧ t.records[tag] = u.records[tag]
              ∧ (h.stalled = false →
                ∃ rest, t.records[tag] = pre ++ { h with spent := true, phase := .ready } :: rest))
          ∧ (s.gates[tag].state ≠ .closed .watchBefore → state ≠ .opened ∨ s.gates[tag].state ≠ .opened →
              h.stalled = false → h.decision = .holdBefore → h.spent = false →
              t.records[tag] = s.records[tag] ∧ t.gates[tag].state = .closed .watchBefore
                ∧ t.gates[tag].timer = (if s.gates[tag].limit ≠ 0
                    then some (s.gates[tag].limit.toNat * 100) else none))

/-- TAG-WITHDRAW answers every GATED record of the tag WITHDRAWN with zero data, leaves the others, sets the
gate OPEN or CLOSED with FREEZE, stops the timer and reports the number withdrawn; the response channel keeps
its offer or chooses by its rotation (R20, R64, R65). -/
def Obligations.WithdrawAnswersGatedRecords : Prop :=
  ∀ (s : State) (tag : Tag) (after : Byte) (state : GateState), s.takesPeriods = true →
    after = 0x00 ∧ state = .opened ∨ after = 0x01 ∧ state = .closed .freeze →
    ∃ t, exec (.tagWithdraw (byteOf tag.val) after) s = .next t
      ∧ t.Responds 0x24 [byteOf tag.val, after] 0x00
          [BitVec.ofNat 8 (s.records[tag].filter (·.isGated)).length]
      ∧ t.records[tag] = s.records[tag].map (fun r =>
          if r.phase = .gated then
            { r with phase := .answered ⟨.withdrawn,
              if r.access = .read then List.replicate r.beats.toNat 0 else []⟩ }
          else r)
      ∧ t.gates[tag] = { s.gates[tag] with state := state, timer := none }
      ∧ (∀ u : Tag, u ≠ tag → t.gates[u] = s.gates[u] ∧ t.records[u] = s.records[u])
      ∧ t = ({ s with
          gates := t.gates, records := t.records,
          offer := ({ t with offer := s.offer } : State).offerNext.offer } : State).withLinkOf t

/-- On the head of a CLOSED gate, HELD-PATCH replaces one beat of a WRITE's data and enables and nothing
else, and HELD-ANSWER answers the head DONE with the supplied values, zero for those not supplied, and
turns cause WATCH-BEFORE into FREEZE; the timer runs on while GATED records remain, and the response channel
keeps its offer or chooses by its rotation (R20, R66 to R70, R185; at most 16 values reach the block, R181). -/
def Obligations.PatchAndAnswerOfTheHead : Prop :=
  ∀ (s : State) (tag : Tag) (cause : CloseCause) (pre post : List TransitRecord) (h : TransitRecord),
    s.takesPeriods = true → s.gates[tag].state = .closed cause → s.records[tag] = pre ++ h :: post →
    hasGated pre = false → h.phase = .gated →
    (∀ (beat : Byte) (data : Beat) (enables : Byte), h.access = .write → beat.toNat < h.beats.toNat →
      enables ≠ 0 →
      ∃ t, exec (.heldPatch (byteOf tag.val) beat data enables) s = .next t
        ∧ t.Responds 0x27 (byteOf tag.val :: beat :: beatBytes data ++ [enables]) 0x00 []
        ∧ t.records[tag] = pre ++ { h with writeData := h.writeData.set beat.toNat ⟨data, enables⟩ } :: post
        ∧ (∀ u : Tag, u ≠ tag → t.records[u] = s.records[u])
        ∧ t = ({ s with records := t.records } : State).withLinkOf t)
    ∧ ∀ values : List Beat, values.length ≤ 16 →
      ∃ t a, exec (.heldAnswer (byteOf tag.val) values) s = .next t
        ∧ t.Responds 0x28 (byteOf tag.val :: byteOf values.length :: values.flatMap beatBytes) 0x00 []
        ∧ t.records[tag] = pre ++ { h with phase := .answered ⟨.done, a⟩ } :: post
        ∧ (h.access = .write → a = [])
        ∧ (h.access = .read → a.length = h.beats.toNat
            ∧ ∀ k, k < h.beats.toNat → a[k]? = some (values.getD k 0))
        ∧ t.gates[tag] = { s.gates[tag] with
            state := .closed (if cause = .watchBefore then .freeze else cause)
            timer := if hasGated post ∧ s.gates[tag].limit ≠ 0
              then some (s.gates[tag].timer.getD (s.gates[tag].limit.toNat * 100)) else none }
        ∧ (∀ u : Tag, u ≠ tag → t.gates[u] = s.gates[u] ∧ t.records[u] = s.records[u])
        ∧ t = ({ s with
            gates := t.gates, records := t.records,
            offer := ({ t with offer := s.offer } : State).offerNext.offer } : State).withLinkOf t

/-- A hold timer's expiry at a CLOSED gate. With PASS the gate opens, a HOLD-BEFORE of the head is spent
whatever the cause, and an unstalled head passes; with WITHDRAW every GATED record is answered WITHDRAWN and
the gate opens. Then the lossy HOLD-EXPIRED event is placed, with the tag, the cause the gate had, the
policy and the number withdrawn (R56, R72, R73, R74). -/
def Obligations.HoldTimerExpiry : Prop :=
  ∀ (s : State) (tag : Tag) (cause : CloseCause) (m : Nat), s.takesEvents = true →
    s.gates[tag].timer = some m → s.gates[tag].state = .closed cause →
    (s.gates[tag].policy = .pass → ∀ (pre post : List TransitRecord) (h : TransitRecord),
      s.records[tag] = pre ++ h :: post → hasGated pre = false → h.phase = .gated →
      ∃ t, exec (.holdTimerExpiry tag) s = .next t
        ∧ (let h' := { h with spent := h.spent || h.decision = .holdBefore }
           let u := ({ s with
              gates := s.gates.set tag { s.gates[tag] with state := .opened, timer := none }
              records := s.records.set tag (pre ++ h' :: post) } : State).consider tag
           t = u.place (.holdExpired tag cause .pass 0) none)
        ∧ (h.stalled = false → ∃ rest, t.records[tag] =
            pre ++ { h with spent := h.spent || h.decision = .holdBefore, phase := .ready } :: rest)
        ∧ (h.stalled = true → t.gates[tag].state = .opened))
    ∧ (s.gates[tag].policy = .withdraw →
      exec (.holdTimerExpiry tag) s = .next
        (({ s with
            gates := s.gates.set tag { s.gates[tag] with state := .opened, timer := none }
            records := s.records.set tag (s.records[tag].map fun r : TransitRecord =>
              if r.phase = .gated then
                { r with phase := .answered ⟨.withdrawn,
                  if r.access = .read then List.replicate r.beats.toNat 0 else []⟩ }
              else r) } : State).place
          (.holdExpired tag cause .withdraw (s.records[tag].filter (·.isGated)).length) none).offerNext)

/-! ## The memory port -/

/-- A grant goes to the first contender after the arbiter position in the ring of the tags and the probe,
gives it the lowest-numbered FREE slot, and moves the arbiter position to it. A tag's oldest READY record or
the QUEUED probe becomes AT-MEMORY, its request goes out with the data as they stand, and the slot keeps the
issued access and beats and starts its timer from the response limit in force (R13, R82, R83, R85, R91,
R148). -/
def Obligations.GrantFollowsRotation : Prop :=
  ∀ (s : State) (slot : SlotIndex) (n : Fin 9), s.takesEvents = true →
    s.slots[slot] = .free → (∀ k : SlotIndex, k < slot → s.slots[k] ≠ .free) →
    s.contends (s.arbiter + 1 + n) = true → (∀ m : Fin 9, m < n → s.contends (s.arbiter + 1 + m) = false) →
    let timer := if s.responseLimit = 0 then none else some s.responseLimit.toNat
    (∀ (tag : Tag) (pre post : List TransitRecord) (r : TransitRecord),
      (s.arbiter + 1 + n).val = tag.val → s.records[tag] = pre ++ r :: post →
      (∀ x ∈ pre, x.phase ≠ .ready) → r.phase = .ready →
      exec .grant s = .next { s with
        arbiter := s.arbiter + 1 + n
        records := s.records.set tag (pre ++ { r with phase := .atMemory slot } :: post)
        slots := s.slots.set slot (.busy (.record tag) r.access r.beats.toNat s.responseLimit timer)
        memoryRequest := some ⟨slot, r.access, r.address, r.beats.toNat, r.writeData⟩ })
    ∧ (∀ q : ProbeRequest, (s.arbiter + 1 + n).val = 8 → s.probe = .queued q →
      exec .grant s = .next { s with
        arbiter := s.arbiter + 1 + n
        probe := .atMemory q
        slots := s.slots.set slot (.busy .probe q.access q.beats s.responseLimit timer)
        memoryRequest := some ⟨slot, q.access, q.address, q.beats, q.writeData⟩ })

/-- An answer to a WRITE record, or an ERROR answer to a READ record, frees the slot and answers the record
DONE or MEMORY-ERROR, a READ with one zero value per beat; it is not evaluated, produces no event, and
nothing else changes but the response channel (R14, R16, R87, R88). -/
def Obligations.AnswerWithoutEvaluation : Prop :=
  ∀ (s : State) (slot : SlotIndex) (tag : Tag) (limit : BitVec 16) (timer : Option Nat) (code : MemoryCode)
    (data : List Beat) (pre post : List TransitRecord) (r : TransitRecord),
    s.takesEvents = true → s.slots[slot] = .busy (.record tag) r.access r.beats.toNat limit timer →
    s.records[tag] = pre ++ r :: post → r.phase = .atMemory slot →
    (∀ x ∈ pre ++ post, x.phase ≠ .atMemory slot) → code = .error ∨ r.access = .write →
    let answer : Answer := ⟨if code = .ok then .done else .memoryError,
      if r.access = .read then List.replicate r.beats.toNat 0 else []⟩
    exec (.answer slot code data) s = .next
      ({ s with
        slots := s.slots.set slot .free
        records := s.records.set tag (pre ++ { r with phase := .answered answer } :: post) } : State).offerNext

/-- An OK answer to a READ record takes one value per issued beat, zero where the answer carries none,
answers the record DONE with them, frees the slot, and judges them by the entries as they stand: a HOLD-AFTER
firing closes an open or stepping gate with WATCH-READ and leaves a closed one its cause, the WATCH-READ
event is placed, and a lossless one that finds no place stalls the record; the response channel keeps its offer
or chooses by its rotation (R15, R20, R41, R43, R44, R57, R70, R87, R88). -/
def Obligations.AnswerToReadIsEvaluated : Prop :=
  ∀ (s : State) (slot : SlotIndex) (tag : Tag) (limit : BitVec 16) (timer : Option Nat) (data : List Beat)
    (pre post : List TransitRecord) (r : TransitRecord),
    s.takesEvents = true → s.slots[slot] = .busy (.record tag) .read r.beats.toNat limit timer →
    s.records[tag] = pre ++ r :: post → r.access = .read → r.phase = .atMemory slot → r.stalled = false →
    (∀ x ∈ pre ++ post, x.phase ≠ .atMemory slot ∧ x.id ≠ r.id) →
    ∃ t r' values, exec (.answer slot .ok data) s = .next t
      ∧ values.length = r.beats.toNat
      ∧ (∀ k, k < r.beats.toNat → values[k]? = some (data.getD k 0))
      ∧ (let judge := WatchEntry.judgeResponse tag r values
         let fired := firedList s.entries judge
         let action := responseAction s.entries fired
         let event := Event.watchRead (r.transaction tag) (firingOf s.entries judge action)
         let link : Option RecordLink := if reportsLossless s.entries fired then some ⟨tag, r.id⟩ else none
         let placed := if reports s.entries fired then s.place event link else s
         t.records[tag] = pre ++ r' :: post
          ∧ (∀ u : Tag, u ≠ tag → t.records[u] = s.records[u] ∧ t.gates[u] = s.gates[u])
          ∧ r' = { r with phase := .answered ⟨.done, values⟩, stalled := r'.stalled }
          ∧ (r'.stalled = true ↔ reportsLossless s.entries fired = true ∧ 32 ≤ s.store.length
              ∧ ∀ w ∈ s.waitsPending, w.selector.accepts event = false)
          ∧ t.gates[tag] =
              (if (∃ i ∈ fired, s.entries[i].definition.action = .holdAfter)
                  ∧ s.gates[tag].state.isClosed = false then
                { s.gates[tag] with
                  state := .closed .watchRead
                  timer := if hasGated s.records[tag] ∧ s.gates[tag].limit ≠ 0
                    then some (s.gates[tag].timer.getD (s.gates[tag].limit.toNat * 100)) else none }
              else s.gates[tag])
          ∧ t = { s with
              slots := s.slots.set slot .free
              records := t.records, gates := t.gates
              offer := ({ t with offer := s.offer } : State).offerNext.offer
              entries := evaluateEntries s.entries judge (r.transaction tag)
              store := placed.store, stalls := placed.stalls, lost := placed.lost
              sequence := placed.sequence, waitsPending := placed.waitsPending
              waitsComplete := placed.waitsComplete })

/-- An answer to the probe's slot frees the slot and makes the probe DONE with result DONE and the values
returned, zero where none is returned, or MEMORY-ERROR with zeros; its lossy PROBE-DONE event is placed, and
no entry, gate or record is touched (R89, R149, R151). -/
def Obligations.AnswerCompletesProbe : Prop :=
  ∀ (s : State) (slot : SlotIndex) (access : Access) (beats : Nat) (limit : BitVec 16) (timer : Option Nat)
    (q : ProbeRequest) (code : MemoryCode) (data : List Beat),
    s.takesEvents = true → s.slots[slot] = .busy .probe access beats limit timer → s.probe = .atMemory q →
    ∃ values : List Beat,
      values.length = (if q.access = .read then q.beats else 0)
      ∧ (∀ k, k < values.length → values[k]? = some (if code = .ok then data.getD k 0 else 0))
      ∧ exec (.answer slot code data) s = .next
        (({ s with
            slots := s.slots.set slot .free
            probe := .done q (if code = .ok then .done else .memoryError) values } : State).place
          (.probeDone (if code = .ok then .done else .memoryError)) none)

/-- An answer that names a FREE slot changes nothing, and one that names a LINGERING slot frees the slot and
is discarded, whatever its code and data (R90). -/
def Obligations.AnswerWithoutOccupant : Prop :=
  ∀ (s : State) (slot : SlotIndex) (code : MemoryCode) (data : List Beat), s.takesEvents = true →
    (s.slots[slot] = .free → exec (.answer slot code data) s = .next s)
    ∧ (s.slots[slot] = .lingering → ∃ t, exec (.answer slot code data) s = .next t
        ∧ t.slots[slot] = .free ∧ (∀ k : SlotIndex, k ≠ slot → t.slots[k] = s.slots[k])
        ∧ t = { s with slots := t.slots })

/-- When the response timer of a record's slot expires, the record is answered NO-ANSWER with zero data, the
slot becomes LINGERING, and a lossy NO-ANSWER event with the record's fields is placed (R16, R92). -/
def Obligations.ResponseExpiryOfRecord : Prop :=
  ∀ (s : State) (slot : SlotIndex) (tag : Tag) (access : Access) (beats : Nat) (limit : BitVec 16) (m : Nat)
    (pre post : List TransitRecord) (r : TransitRecord),
    s.takesEvents = true → s.slots[slot] = .busy (.record tag) access beats limit (some m) →
    s.records[tag] = pre ++ r :: post → r.phase = .atMemory slot →
    (∀ x ∈ pre ++ post, x.phase ≠ .atMemory slot) →
    let answer : Answer := ⟨.noAnswer, if r.access = .read then List.replicate r.beats.toNat 0 else []⟩
    exec (.responseTimerExpiry slot) s = .next
      (({ s with
          slots := s.slots.set slot .lingering
          records := s.records.set tag (pre ++ { r with phase := .answered answer } :: post) } : State).place
        (.noAnswer ⟨tag, r.privilege, r.access, r.address, r.beats, r.arrival⟩) none).offerNext

/-- When the response timer of the probe's slot expires, the probe becomes DONE with result NO-ANSWER and
zero read data, the slot becomes LINGERING, and the PROBE-DONE event with that code is placed and no other
(R93). -/
def Obligations.ResponseExpiryOfProbe : Prop :=
  ∀ (s : State) (slot : SlotIndex) (access : Access) (beats : Nat) (limit : BitVec 16) (m : Nat)
    (q : ProbeRequest),
    s.takesEvents = true → s.slots[slot] = .busy .probe access beats limit (some m) → s.probe = .atMemory q →
    exec (.responseTimerExpiry slot) s = .next
      (({ s with
          slots := s.slots.set slot .lingering
          probe := .done q .noAnswer (if q.access = .read then List.replicate q.beats 0 else []) } : State).place
        (.probeDone .noAnswer) none)

/-- SET-RESPONSE-LIMIT takes every value, sets the limit of later grants and nothing else, and reports the
limit and the numbers of BUSY and LINGERING slots (R91, R97, R100). -/
def Obligations.SetResponseLimitReports : Prop :=
  ∀ (s : State) (limit : BitVec 16), s.takesPeriods = true →
    ∃ t, exec (.setResponseLimit limit) s = .next t
      ∧ t.Responds 0x03 (u16Bytes limit) 0x00 (u16Bytes limit ++
          [BitVec.ofNat 8 (s.slots.toList.filter Slot.isBusy).length,
           BitVec.ofNat 8 (s.slots.toList.filter Slot.isLingering).length])
      ∧ t = ({ s with responseLimit := limit } : State).withLinkOf t

/-! ## Events, waits and attention -/

/-- The placement of a new event: the first PENDING wait in post order that matches takes it and becomes
COMPLETE; else the store with room takes it; each delivery takes and advances the sequence number and takes
and clears the lost counter. Else a lossless event joins the stall list and its record is stalled, and any
other is dropped and counted up to 255 (R105, R106, R107, R126, R134). -/
def Obligations.EventPlacement : Prop :=
  ∀ (s : State) (e : Event) (lossless : Option RecordLink),
    let d : Delivered := ⟨s.sequence, s.lost, e⟩
    (∀ (pre post : List PendingWait) (w : PendingWait), s.waitsPending = pre ++ w :: post →
      (∀ v ∈ pre, v.selector.accepts e = false) → w.selector.accepts e = true →
      s.place e lossless = { s with
        waitsPending := pre ++ post
        waitsComplete := s.waitsComplete ++ [⟨w.handle, w.selector, d⟩]
        sequence := s.sequence + 1
        lost := 0 })
    ∧ ((∀ w ∈ s.waitsPending, w.selector.accepts e = false) →
      (s.store.length < 32 → s.place e lossless = { s with
        store := s.store ++ [d]
        sequence := s.sequence + 1
        lost := 0 })
      ∧ (32 ≤ s.store.length →
        (lossless = none →
          s.place e lossless = { s with lost := BitVec.ofNat 8 (min 255 (s.lost.toNat + 1)) })
        ∧ ∀ link, lossless = some link → ∃ t, s.place e lossless = t
          ∧ t.stalls = s.stalls ++ [⟨e, link⟩]
          ∧ t.records[link.tag] = s.records[link.tag].map (fun r : TransitRecord =>
              if r.id = link.id then { r with stalled := true } else r)
          ∧ (∀ u : Tag, u ≠ link.tag → t.records[u] = s.records[u])
          ∧ t = { s with stalls := t.stalls, records := t.records }))

/-- A selector matches an event when its kinds hold the event's kind, its tags hold the event's tag if it
carries one, and, for WATCH and WATCH-READ, its watches are empty or share an index with the fired list
(R127, R128). -/
def Obligations.SelectorMatching : Prop :=
  ∀ (sel : Selector) (x : Transaction) (f : Firing) (tag : Tag) (cause : CloseCause)
    (policy : ExpiryPolicy) (n : Nat) (code : ProbeCode),
    let watches := sel.watches = 0 ∨ ∃ i ∈ f.fired, sel.watches.getLsbD i.val = true
    (sel.accepts (.watch x f) = true ↔
      sel.kinds.getLsbD 0 = true ∧ sel.tags.getLsbD x.tag.val = true ∧ watches)
    ∧ (sel.accepts (.watchRead x f) = true ↔
      sel.kinds.getLsbD 1 = true ∧ sel.tags.getLsbD x.tag.val = true ∧ watches)
    ∧ (sel.accepts (.holdExpired tag cause policy n) = true ↔
      sel.kinds.getLsbD 2 = true ∧ sel.tags.getLsbD tag.val = true)
    ∧ (sel.accepts (.noAnswer x) = true ↔ sel.kinds.getLsbD 3 = true ∧ sel.tags.getLsbD x.tag.val = true)
    ∧ (sel.accepts (.malformed x) = true ↔ sel.kinds.getLsbD 4 = true ∧ sel.tags.getLsbD x.tag.val = true)
    ∧ (sel.accepts .targetReset = true ↔ sel.kinds.getLsbD 5 = true)
    ∧ (sel.accepts (.probeDone code) = true ↔ sel.kinds.getLsbD 6 = true)

/-- The refill moves stalled events into the store, oldest first, until the store is full or the stall list
empty; each takes the next sequence number, the first the lost counter and the others lost before 0, and
no record of a moved event stays stalled: one after another each loses its mark, and its tag's head is
considered (R106, R115, R116). -/
def Obligations.RefillMovesOldestFirst : Prop :=
  ∀ s : State, let t := s.refill
    ∃ moved : List Stalled, s.stalls = moved ++ t.stalls
      ∧ (t.stalls = [] ∨ 32 ≤ t.store.length)
      ∧ (s.store.length + moved.length ≤ 32 ∨ moved = [])
      ∧ t.store = s.store ++ moved.zipIdx.map (fun (e, k) =>
          ⟨s.sequence + BitVec.ofNat 16 k, if k = 0 then s.lost else 0, e.event⟩)
      ∧ t.sequence = s.sequence + BitVec.ofNat 16 moved.length
      ∧ t.lost = (if moved = [] then s.lost else 0)
      ∧ (∀ e ∈ moved, ∀ r ∈ t.records[e.link.tag], r.id = e.link.id → r.stalled = false)
      ∧ (let u := moved.foldl (fun v e => (v.markStall e.link false).consider e.link.tag) s
         t.records = u.records ∧ t.gates = u.gates)
      ∧ t = { s with
          store := t.store, stalls := t.stalls, sequence := t.sequence, lost := t.lost,
          records := t.records, gates := t.gates }

/-- EVENT-TAKE returns the whole record of the oldest stored event and removes it; EVENT-DISCARD empties the
store and returns the numbers discarded and moved in; both refill the store from the stall list as part of
the request (R110, R112, R115). That the response channel chooses once, after the whole refill of an
EVENT-DISCARD, is the model's choice (log entry 21). -/
def Obligations.EventTakeAndDiscard : Prop :=
  ∀ s : State, s.takesPeriods = true →
    (∀ (d : Delivered) (rest : List Delivered), s.store = d :: rest →
      ∃ t, exec .eventTake s = .next t ∧ t.Responds 0x30 [] 0x00 d.bytes
        ∧ t = (({ s with store := rest } : State).refill.offerNext).withLinkOf t)
    ∧ ∃ t, exec .eventDiscard s = .next t
      ∧ t.Responds 0x32 [] 0x00
          [BitVec.ofNat 8 s.store.length, BitVec.ofNat 8 (s.stalls.length - t.stalls.length)]
      ∧ (s.stalls.length ≤ 32 → t.stalls = [] ∧ t.store.length = s.stalls.length)
      ∧ t = (({ s with store := [] } : State).refill.offerNext).withLinkOf t

/-- An accepted WAIT-POST takes the oldest matching event of the store, with its numbers unchanged, and the
store is refilled; else the oldest matching stalled event, delivered with the next sequence number, and its
record proceeds; else it becomes PENDING at the young end of the pending order. The outcome and the
sequence number of the event taken are returned (R126, R129 to R132, R117). -/
def Obligations.WaitPostTakesOldestMatch : Prop :=
  ∀ (s : State) (handle kinds tags : Byte) (watches : BitVec 16),
    s.takesPeriods = true → kinds ≠ 0 → kinds.getLsbD 7 = false → s.handleInUse handle = false →
    s.waitsPending.length + s.waitsComplete.length < 16 →
    let sel : Selector := ⟨kinds, tags, watches⟩
    let payload := handle :: kinds :: tags :: u16Bytes watches
    ∃ t, exec (.waitPost handle kinds tags watches) s = .next t
      ∧ (∀ (pre post : List Delivered) (d : Delivered), s.store = pre ++ d :: post →
          (∀ x ∈ pre, sel.accepts x.event = false) → sel.accepts d.event = true →
          t.Responds 0x33 payload 0x00 (0x01 :: u16Bytes d.sequence)
          ∧ t = (({ s with
              store := pre ++ post
              waitsComplete := s.waitsComplete ++ [⟨handle, sel, d⟩] } : State).refill.offerNext).withLinkOf t)
      ∧ ((∀ x ∈ s.store, sel.accepts x.event = false) →
          (∀ (pre post : List Stalled) (e : Stalled), s.stalls = pre ++ e :: post →
            (∀ x ∈ pre, sel.accepts x.event = false) → sel.accepts e.event = true →
            t.Responds 0x33 payload 0x00 (0x02 :: u16Bytes s.sequence)
            ∧ t = ((({ s with
                stalls := pre ++ post
                waitsComplete := s.waitsComplete ++ [⟨handle, sel, ⟨s.sequence, s.lost, e.event⟩⟩]
                sequence := s.sequence + 1
                lost := 0 } : State).unstall e.link).offerNext).withLinkOf t)
          ∧ ((∀ x ∈ s.stalls, sel.accepts x.event = false) →
            t.Responds 0x33 payload 0x00 [0x00, 0x00, 0x00]
            ∧ t = ({ s with waitsPending := s.waitsPending ++ [⟨handle, sel⟩] } : State).withLinkOf t))

/-- WAIT-CANCEL frees the PENDING wait of its handle and leaves the others in their order, and WAIT-TAKE
returns the handle and event record of the oldest COMPLETE wait and frees it; nothing else changes (R136,
R138). -/
def Obligations.WaitCancelAndTake : Prop :=
  ∀ s : State, s.takesPeriods = true →
    (∀ (handle : Byte) (pre post : List PendingWait) (w : PendingWait),
      s.waitsPending = pre ++ w :: post → w.handle = handle → (∀ v ∈ pre, v.handle ≠ handle) →
      ∃ t, exec (.waitCancel handle) s = .next t ∧ t.Responds 0x34 [handle] 0x00 []
        ∧ t = ({ s with waitsPending := pre ++ post } : State).withLinkOf t)
    ∧ ∀ (w : CompleteWait) (rest : List CompleteWait), s.waitsComplete = w :: rest →
      ∃ t, exec .waitTake s = .next t ∧ t.Responds 0x35 [] 0x00 (w.handle :: w.event.bytes)
        ∧ t = ({ s with waitsComplete := rest } : State).withLinkOf t

/-- ATTN is asserted exactly while an enabled condition holds: COMPLETIONS with a COMPLETE wait, STORED with
a stored event. ATTN-SET sets the enables and nothing else, and reports the enables, the conditions, ATTN
and the numbers of PENDING and COMPLETE waits (R140, R141, R179; layout 10.7). -/
def Obligations.AttentionFollowsConditions : Prop :=
  (∀ s : State, (s.attn = true ↔ s.enableCompletions = true ∧ s.waitsComplete ≠ []
      ∨ s.enableStored = true ∧ s.store ≠ [])
    ∧ (s.attnDrivenLow = true ↔ s.powered = true ∧ s.attn = true))
  ∧ ∀ (s : State) (conditions : Byte), s.takesPeriods = true → conditions.toNat < 4 →
    ∃ t, exec (.attnSet conditions) s = .next t
      ∧ t.enableCompletions = conditions.getLsbD 0 ∧ t.enableStored = conditions.getLsbD 1
      ∧ t.Responds 0x36 [conditions] 0x00
          [conditions,
           BitVec.ofNat 8 ((if s.waitsComplete ≠ [] then 1 else 0) + (if s.store ≠ [] then 2 else 0)),
           if t.attn then 0x01 else 0x00,
           BitVec.ofNat 8 s.waitsPending.length, BitVec.ofNat 8 s.waitsComplete.length]
      ∧ t = ({ s with enableCompletions := t.enableCompletions, enableStored := t.enableStored } : State).withLinkOf t

/-! ## Probes -/

/-- An accepted PROBE-READ or PROBE-WRITE makes the probe QUEUED with the request as carried, discarding a
previous result, and changes nothing else (R146, R147, R149). -/
def Obligations.ProbeIsQueued : Prop :=
  ∀ (s : State) (address : Addr), s.takesPeriods = true → s.sysrst = false → s.probe.inFlight = false →
    (∀ beats : Byte, transferWellFormed .read address beats.toNat [] = true →
      ∃ t, exec (.probeRead address beats) s = .next t
        ∧ t.Responds 0x40 (u32Bytes address ++ [beats]) 0x00 []
        ∧ t = ({ s with probe := .queued ⟨.read, address, beats.toNat, []⟩ } : State).withLinkOf t)
    ∧ ∀ data : List WriteBeat, transferWellFormed .write address data.length data = true →
      ∃ t, exec (.probeWrite address data) s = .next t
        ∧ t.Responds 0x41 (u32Bytes address ++ BitVec.ofNat 8 data.length ::
            data.flatMap fun b => beatBytes b.data ++ [b.enables]) 0x00 []
        ∧ t = ({ s with probe := .queued ⟨.write, address, data.length, data⟩ } : State).withLinkOf t

/-- PROBE-RESULT returns the result of a DONE probe, with its read data for a READ, and makes the probe IDLE;
PROBE-CANCEL makes it IDLE from every state, reports the state found, and leaves a slot it was issued
through LINGERING; nothing else changes (R96, R152, R153). -/
def Obligations.ProbeResultAndCancel : Prop :=
  ∀ s : State, s.takesPeriods = true →
    (∀ (q : ProbeRequest) (code : ProbeCode) (data : List Beat), s.probe = .done q code data →
      ∃ t, exec .probeResult s = .next t
        ∧ t.Responds 0x42 [] 0x00 (accessCode q.access :: u32Bytes q.address
            ++ [BitVec.ofNat 8 q.beats, code.code]
            ++ (if q.access = .read then data.flatMap beatBytes else []))
        ∧ t = ({ s with probe := .idle } : State).withLinkOf t)
    ∧ ∃ t, exec .probeCancel s = .next t
      ∧ t.Responds 0x43 [] 0x00 [match s.probe with
          | .idle => 0x00
          | .queued _ => 0x01
          | .atMemory _ => 0x02
          | .done _ _ _ => 0x03]
      ∧ t.probe = .idle
      ∧ (∀ k : SlotIndex, t.slots[k] =
          if s.probe.code = 0x02 ∧ s.slots[k].holdsProbe = true then .lingering else s.slots[k])
      ∧ t = ({ s with probe := t.probe, slots := t.slots } : State).withLinkOf t

/-! ## Refusals -/

/-- The refusals of the watch table and the gate unit, each with the status of the first check that fails
and with nothing changed outside the link: an index or tag out of range, a value that is not listed or a
definition that is not permitted, an undefined entry, 0 steps, a head that is not held, a READ head or beat
out of range or no enable in a patch (R27, R30, R47, R59, R62, R64, R67, R68, R71, R169, R183; at most 16 values
reach the block, R181). -/
def Obligations.TableAndGateRefusals : Prop :=
  ∀ s : State, s.takesPeriods = true →
    (∀ (index parameter : Byte) (raw : RawDefinition), 16 ≤ index.toNat →
      s.Refuses (.watchWrite index raw) 0x03 ∧ s.Refuses (.watchRead index) 0x03
      ∧ s.Refuses (.disable index) 0x03 ∧ s.Refuses (.enableLive index) 0x03
      ∧ s.Refuses (.enableDormant index) 0x03 ∧ s.Refuses (.rearm index) 0x03
      ∧ s.Refuses (.watchState index parameter) 0x03)
    ∧ (∀ (i : WatchIndex) (raw : RawDefinition),
      (∀ d, definitionOf raw = some d → d.permitted i = false) →
      s.Refuses (.watchWrite (byteOf i.val) raw) 0x04)
    ∧ (∀ i : WatchIndex, s.entries[i].undefined = true →
      s.Refuses (.disable (byteOf i.val)) 0x05 ∧ s.Refuses (.enableLive (byteOf i.val)) 0x05
      ∧ s.Refuses (.enableDormant (byteOf i.val)) 0x05 ∧ s.Refuses (.rearm (byteOf i.val)) 0x05)
    ∧ (∀ (tag b c : Byte) (n : BitVec 16) (v : Beat) (vs : List Beat), 8 ≤ tag.toNat → vs.length ≤ 16 →
      s.Refuses (.tagRead tag) 0x03 ∧ s.Refuses (.tagFreeze tag) 0x03 ∧ s.Refuses (.tagResume tag) 0x03
      ∧ s.Refuses (.tagStep tag n) 0x03 ∧ s.Refuses (.tagWithdraw tag b) 0x03
      ∧ s.Refuses (.tagLimit tag n b) 0x03 ∧ s.Refuses (.heldList tag) 0x03
      ∧ s.Refuses (.heldPatch tag b v c) 0x03 ∧ s.Refuses (.heldAnswer tag vs) 0x03)
    ∧ (∀ (tag : Tag) (code : Byte) (n : BitVec 16),
      s.Refuses (.tagStep (byteOf tag.val) 0) 0x04
      ∧ (2 ≤ code.toNat → s.Refuses (.tagWithdraw (byteOf tag.val) code) 0x04
          ∧ s.Refuses (.tagLimit (byteOf tag.val) n code) 0x04))
    ∧ (∀ (tag : Tag) (beat enables : Byte) (v : Beat) (vs : List Beat), vs.length ≤ 16 →
      s.gates[tag].state.isClosed = false ∨ hasGated s.records[tag] = false →
      s.Refuses (.heldPatch (byteOf tag.val) beat v enables) 0x05
      ∧ s.Refuses (.heldAnswer (byteOf tag.val) vs) 0x05)
    ∧ ∀ (tag : Tag) (beat enables : Byte) (v : Beat) (pre post : List TransitRecord) (h : TransitRecord),
      s.gates[tag].state.isClosed = true → s.records[tag] = pre ++ h :: post → hasGated pre = false →
      h.phase = .gated →
      (h.access = .read → s.Refuses (.heldPatch (byteOf tag.val) beat v enables) 0x05)
      ∧ (h.access = .write → h.beats.toNat ≤ beat.toNat →
          s.Refuses (.heldPatch (byteOf tag.val) beat v enables) 0x03)
      ∧ (h.access = .write → beat.toNat < h.beats.toNat →
          s.Refuses (.heldPatch (byteOf tag.val) beat v 0) 0x04)

/-- The refusals of the event unit, the wait table and the probe engine, each with the status of the first
check that fails and with nothing changed outside the link (R110, R129, R136, R138, R141, R146, R152,
R169; at most 17 beats reach the block, R181). -/
def Obligations.EventWaitAndProbeRefusals : Prop :=
  ∀ s : State, s.takesPeriods = true →
    (s.store = [] → s.Refuses .eventTake 0x08)
    ∧ (∀ (handle kinds tags : Byte) (watches : BitVec 16),
      (kinds = 0 ∨ kinds.getLsbD 7 = true → s.Refuses (.waitPost handle kinds tags watches) 0x04)
      ∧ (kinds ≠ 0 → kinds.getLsbD 7 = false →
          (s.handleInUse handle = true → s.Refuses (.waitPost handle kinds tags watches) 0x09)
          ∧ (s.handleInUse handle = false → 16 ≤ s.waitsPending.length + s.waitsComplete.length →
              s.Refuses (.waitPost handle kinds tags watches) 0x07)))
    ∧ (∀ handle : Byte, (∀ w ∈ s.waitsPending, w.handle ≠ handle) →
      ((∃ w ∈ s.waitsComplete, w.handle = handle) → s.Refuses (.waitCancel handle) 0x0B)
      ∧ ((∀ w ∈ s.waitsComplete, w.handle ≠ handle) → s.Refuses (.waitCancel handle) 0x0A))
    ∧ (s.waitsComplete = [] → s.Refuses .waitTake 0x08)
    ∧ (∀ conditions : Byte, 4 ≤ conditions.toNat → s.Refuses (.attnSet conditions) 0x04)
    ∧ (∀ (address : Addr) (beats : Byte) (data : List WriteBeat) (c : Instr) (wellFormed : Bool),
      data.length ≤ 17 →
      (c = .probeRead address beats ∧ wellFormed = transferWellFormed .read address beats.toNat []
        ∨ c = .probeWrite address data ∧ wellFormed = transferWellFormed .write address data.length data) →
      (wellFormed = false → s.Refuses c 0x04)
      ∧ (wellFormed = true → s.probe.inFlight = true → s.Refuses c 0x06)
      ∧ (wellFormed = true → s.probe.inFlight = false → s.sysrst = true → s.Refuses c 0x05))
    ∧ (s.probe = .idle → s.Refuses .probeResult 0x08)
    ∧ (s.probe.inFlight = true → s.Refuses .probeResult 0x06)

/-! ## The service link -/

/-- The reading requests change nothing outside the link and return the entry, the gate context with the
counts of the tag's records, the gate context with every record oldest first, the event unit's counts, and
the fixed values of the part (R47, R66, R76, R111, R170; layouts 10.4 to 10.7). -/
def Obligations.ReadingRequests : Prop :=
  ∀ s : State, s.takesPeriods = true →
    (∃ t, exec .ident s = .next t ∧ t = s.withLinkOf t
      ∧ t.Responds 0x01 [] 0x00 [0x0A, 0x71, 0x00, 0x60, 0x01, 8, 4, 16, 16, 32, 16, 16])
    ∧ (∃ t, exec .eventStatus s = .next t ∧ t = s.withLinkOf t
      ∧ t.Responds 0x31 [] 0x00 ([BitVec.ofNat 8 s.store.length, BitVec.ofNat 8 s.stalls.length, s.lost]
          ++ u16Bytes s.sequence))
    ∧ (∀ i : WatchIndex, ∃ t, exec (.watchRead (byteOf i.val)) s = .next t ∧ t = s.withLinkOf t
      ∧ t.Responds 0x11 [byteOf i.val] 0x00 (s.entries[i].bytes i))
    ∧ ∀ tag : Tag,
      (∃ t, exec (.tagRead (byteOf tag.val)) s = .next t ∧ t = s.withLinkOf t
        ∧ t.Responds 0x20 [byteOf tag.val] 0x00 (s.gates[tag].bytes tag
            ++ [countByte (·.isGated) s.records[tag], countByte (·.isReady) s.records[tag],
                countByte (·.isAtMemory) s.records[tag], countByte (·.isAnswered) s.records[tag]]))
      ∧ ∃ t, exec (.heldList (byteOf tag.val)) s = .next t ∧ t = s.withLinkOf t
        ∧ t.Responds 0x26 [byteOf tag.val] 0x00 (s.gates[tag].bytes tag
            ++ BitVec.ofNat 8 s.records[tag].length :: s.records[tag].flatMap TransitRecord.bytes)

/-- The sizes and the bytes of the laid-out records, in the codes of 10.3: the gate context block, TAG-READ with
its four counts, HELD-LIST with 16 bytes for each record, WATCH-READ with 24 to 62 bytes by the optional groups
and the latch, and an event record of 5 bytes and the body whose length its fifth byte gives. Numbers stand most
significant byte first and beat data byte 0 first; a fired list is two bytes with bit i set for each member i; a
cause, slot or answer code that is absent is 0FFh; a running hold timer counts its begun units of 100 µs, at
least 1 (10.3 to 10.6, R180, R182). -/
def Obligations.RecordLayoutSizes : Prop :=
  (∀ (tag : Tag) (g : Gate) (l : List TransitRecord),
    (tagReadBytes tag g l).length = 15 ∧ (heldListBytes tag g l).length = 12 + 16 * l.length)
  ∧ (∀ (i : WatchIndex) (e : WatchEntry), (e.bytes i).length = 24
      + (if e.definition.qualifier = none then 0 else 16) + (if e.definition.skip = none then 0 else 2)
      + (if e.definition.arms = none then 0 else 1)
      + (match e.latch with
        | none => 0
        | some l => if l.matched = none then 10 else 19))
  ∧ (∀ d : Delivered, d.bytes.length = 5 + d.event.body.length
      ∧ d.bytes[4]? = some (BitVec.ofNat 8 d.event.body.length)
      ∧ d.event.body.length = (match d.event with
        | .watch _ f => if f.matched = none then 15 else 24
        | .watchRead _ f => if f.matched = none then 15 else 24
        | .holdExpired _ _ _ _ => 4
        | .noAnswer _ => 10
        | .malformed _ => 10
        | .targetReset => 0
        | .probeDone _ => 1))
  ∧ [Access.read, .write].map accessCode = [0x00, 0x01]
  ∧ [AccessFilter.read, .write, .either].map (·.code) = [0x00, 0x01, 0x02]
  ∧ [Privilege.user, .supervisor].map privilegeCode = [0x00, 0x01]
  ∧ [PrivilegeFilter.any, .user, .supervisor].map (·.code) = [0x00, 0x01, 0x02]
  ∧ [Action.note, .holdBefore, .holdAfter, .refuse].map (·.code) = [0x01, 0x02, 0x03, 0x04]
  ∧ [Decision.none, .note, .holdBefore, .holdAfter, .refuse, .malformed].map (·.code)
      = [0x00, 0x01, 0x02, 0x03, 0x04, 0x05]
  ∧ [Report.none, .lossy, .lossless].map (·.code) = [0x00, 0x01, 0x02]
  ∧ [EntryState.disabled, .dormant, .live, .spent].map (·.code) = [0x00, 0x01, 0x02, 0x03]
  ∧ (∀ (k : SlotIndex) (a : Answer),
      [Phase.gated, .ready, .atMemory k, .answered a].map (·.code) = [0x00, 0x01, 0x02, 0x03])
  ∧ [AnswerCode.done, .memoryError, .refused, .withdrawn, .noAnswer, .malformed].map (·.code)
      = [0x00, 0x01, 0x02, 0x03, 0x04, 0x05]
  ∧ (∀ (n : BitVec 16) (c : CloseCause),
      [GateState.opened, .stepping n, .closed c].map (·.code) = [0x00, 0x01, 0x02])
  ∧ [CloseCause.watchBefore, .watchAfter, .watchRead, .freeze, .stepDone, .boot].map (·.code)
      = [0x00, 0x01, 0x02, 0x03, 0x04, 0x05]
  ∧ [ExpiryPolicy.pass, .withdraw].map (·.code) = [0x00, 0x01]
  ∧ [ProbeCode.done, .memoryError, .noAnswer, .targetReset].map (·.code) = [0x00, 0x01, 0x02, 0x03]
  ∧ (let byte := fun n : Nat => BitVec.ofNat 8 n
     let yes := fun b : Bool => if b then (0x01 : Byte) else 0x00
     let two := fun v : BitVec 16 => [v.extractLsb' 8 8, v.extractLsb' 0 8]
     let four := fun v : Addr => [v.extractLsb' 24 8, v.extractLsb' 16 8, v.extractLsb' 8 8, v.extractLsb' 0 8]
     let eight := fun v : Beat => (List.range 8).map fun k => v.extractLsb' (8 * k) 8
     let member := fun (w : BitVec 16) (l : List WatchIndex) => ∀ i : WatchIndex, w.getLsbD i.val = true ↔ i ∈ l
     let fields := fun x : Transaction => [byte x.tag.val, privilegeCode x.privilege, accessCode x.access]
       ++ four x.address ++ [byte x.beats.toNat] ++ two x.arrival
     (∀ (tag : Tag) (g : Gate) (l : List TransitRecord),
       g.bytes tag = [byte tag.val, g.state.code,
           match g.state with
           | .closed cause => cause.code
           | _ => 0xFF]
         ++ two (match g.state with
           | .stepping n => n
           | _ => 0)
         ++ two g.limit ++ [g.policy.code, yes g.timer.isSome]
         ++ two (match g.timer with
           | some micros => BitVec.ofNat 16 (max 1 ((micros + 99) / 100))
           | none => 0)
       ∧ tagReadBytes tag g l = g.bytes tag ++ ([0x00, 0x01, 0x02, 0x03].map fun c : Byte =>
           byte (l.filter fun r => r.phase.code = c).length)
       ∧ heldListBytes tag g l = g.bytes tag ++ [byte l.length] ++ l.flatMap TransitRecord.bytes)
     ∧ (∀ r : TransitRecord, ∃ w, member w r.fired ∧ r.bytes = two r.arrival
         ++ [r.phase.code, yes r.stalled, accessCode r.access] ++ four r.address
         ++ [byte r.beats.toNat, r.decision.code] ++ two w
         ++ [yes r.spent,
           match r.phase with
           | .atMemory k => byte k.val
           | _ => 0xFF,
           match r.phase with
           | .answered a => a.code.code
           | _ => 0xFF])
     ∧ (∀ (i : WatchIndex) (e : WatchEntry), let d := e.definition
         e.bytes i = [byte i.val, yes e.undefined, e.state.code] ++ four d.base ++ four d.limit
           ++ [d.access.code, d.tags, d.privilege.code, d.action.code, d.report.code,
             if d.startLive then EntryState.live.code else EntryState.dormant.code, yes d.once,
             byte ((if d.qualifier.isSome then 1 else 0) + (if d.skip.isSome then 2 else 0)
               + (if d.arms.isSome then 4 else 0))]
           ++ (match d.qualifier with
             | some q => eight q.value ++ eight q.mask
             | none => [])
           ++ (match d.skip with
             | some n => two n
             | none => [])
           ++ (match d.arms with
             | some a => [byte a.val]
             | none => [])
           ++ two e.skips ++ two e.fires
           ++ (match e.latch with
             | none => [0x00]
             | some l => (if l.matched = none then [0x01] else [0x02])
               ++ two l.transaction.arrival
               ++ [byte l.transaction.tag.val, privilegeCode l.transaction.privilege,
                 accessCode l.transaction.access]
               ++ four l.transaction.address ++ [byte l.transaction.beats.toNat]
               ++ (match l.matched with
                 | none => []
                 | some m => [byte m.index] ++ eight m.data)))
     ∧ (∀ d : Delivered, d.bytes = two d.sequence
         ++ [match d.event with
             | .watch _ _ => 0x00
             | .watchRead _ _ => 0x01
             | .holdExpired _ _ _ _ => 0x02
             | .noAnswer _ => 0x03
             | .malformed _ => 0x04
             | .targetReset => 0x05
             | .probeDone _ => 0x06,
           d.lostBefore, byte d.event.body.length] ++ d.event.body)
     ∧ (∀ (x : Transaction) (f : Firing), ∃ w, member w f.fired
         ∧ (Event.watchRead x f).body = (Event.watch x f).body
         ∧ (Event.watch x f).body = fields x ++ two w ++ [f.action.code, yes f.gateClosed]
           ++ (match f.matched with
             | none => [0x00]
             | some m => [0x01, byte m.index] ++ eight m.data))
     ∧ (∀ x : Transaction, (Event.noAnswer x).body = fields x ∧ (Event.malformed x).body = fields x)
     ∧ (∀ (tag : Tag) (cause : CloseCause) (policy : ExpiryPolicy) (n : Nat),
         (Event.holdExpired tag cause policy n).body = [byte tag.val, cause.code, policy.code, byte n])
     ∧ (∀ code : ProbeCode, (Event.probeDone code).body = [code.code])
     ∧ Event.targetReset.body = [])

/-- A read period sends 0FFh during its first byte, then the frame of a READY response and 0FFh behind it,
and 0FFh throughout while the response is NONE or PREPARING; one that becomes READY after `k` further bytes
follows them. A response leaves the link when its last byte has been sent, and stays READY and whole
otherwise. Nothing else changes. The completion of a response makes it READY (R158, R165, R166, R167; the
moment of readiness is log entry 11). -/
def Obligations.ReadPeriodSendsResponse : Prop :=
  (∀ (s : State) (n : Nat) (readyAfter : Option Nat) (f : List Byte) (k : Nat), s.takesPeriods = true → 1 ≤ n →
    (s.held = .ready f ∧ k = 0 ∨ s.held = .preparing f ∧ readyAfter = some k) →
    ∃ t, exec (.readPeriod n readyAfter) s = .next t
      ∧ t.ldo.length = n ∧ t.ldo[0]? = some 0xFF
      ∧ (∀ j, j + 1 < n → t.ldo[j + 1]? = some (if j < k then 0xFF else f.getD (j - k) 0xFF))
      ∧ (1 + k + f.length ≤ n → t.held = .none)
      ∧ (n < 1 + k + f.length → 1 + k ≤ n → t.held = .ready f)
      ∧ (n < 1 + k → t.held = s.held)
      ∧ t = { s with ldo := t.ldo, held := t.held })
  ∧ (∀ (s : State) (n : Nat), s.takesPeriods = true → 1 ≤ n →
    s.held = .none ∨ (∃ f, s.held = .preparing f) →
    exec (.readPeriod n none) s = .next { s with ldo := List.replicate n 0xFF })
  ∧ ∀ (s : State) (f : List Byte), s.takesEvents = true → s.held = .preparing f →
    exec .responseReady s = .next { s with held := .ready f }

/-- A request period whose frame fails the byte count, length or CRC check gets a READY BAD-FRAME response,
and one with an unknown code or a length not permitted for its code a READY BAD-REQUEST response; neither
reaches a block or changes anything outside the link (R159, R161, R162, R165, R169). -/
def Obligations.LinkRefusals : Prop :=
  (∀ (s : State) (code : Byte) (rest : List Byte), s.takesPeriods = true → code ≠ 0xFF →
    (rest.length < 2
      ∨ ∃ len, rest[0]? = some len
        ∧ (160 < len.toNat ∨ rest.length ≠ len.toNat + 2
          ∨ crc8 ((code :: rest).dropLast) ≠ (code :: rest).getLastD 0)) →
    exec (.badFrame (code :: rest)) s = .next { s with
      held := .ready (frame 0x01 [])
      requestBuffer := (code :: rest).take 163
      requestCount := rest.length + 1
      ldo := List.replicate (rest.length + 1) 0xFF })
  ∧ ∀ (s : State) (code : Byte) (payload : List Byte), s.takesPeriods = true → code ≠ 0xFF →
    payload.length ≤ 160 → lengthPermitted code payload = false →
    exec (.badRequest (frame code payload)) s = .next { s with
      held := .ready (frame 0x02 [])
      requestBuffer := frame code payload
      requestCount := payload.length + 3
      ldo := List.replicate (payload.length + 3) 0xFF }

/-- The CRC of R160: polynomial 07h, register from 0FFh, each byte most significant bit first, nothing
reflected and nothing combined at the end, with the two worked values, 00h over every whole frame, and the
same check for request and response frames. -/
def Obligations.CrcOfFrames : Prop :=
  crc8 [] = 0xFF
  ∧ (∀ (bytes : List Byte) (b : Byte), crc8 (bytes ++ [b]) =
      [b.getLsbD 7, b.getLsbD 6, b.getLsbD 5, b.getLsbD 4, b.getLsbD 3, b.getLsbD 2, b.getLsbD 1,
        b.getLsbD 0].foldl
        (fun (r : Byte) bit => if r.getLsbD 7 ≠ bit then (r <<< 1) ^^^ 0x07 else r <<< 1) (crc8 bytes))
  ∧ crc8 [0x00] = 0xF3 ∧ crc8 [0x00, 0x00] = 0xD7
  ∧ (∀ (head : Byte) (payload : List Byte), crc8 (frame head payload) = 0x00)
  ∧ ∀ (code : Byte) (payload : List Byte), payload.length ≤ 160 →
      openFrame (frame code payload) = some (code, payload)

/-- Reading a period gives back the command that it carries, with every operand at every value the layouts
admit, and the part acts on the bytes of the period as on that command (R158, R161, R162, R163, R180, R181;
layouts 10.4 to 10.7). The readiness of a response within a read period is not on the wire. -/
def Obligations.PeriodCarriesItsCommand : Prop :=
  ∀ i : Instr, i.wellFormed = true →
    (i.requestCode ≠ none ∨ (∃ b, i = .badFrame b ∨ i = .badRequest b) ∨ ∃ n, i = .readPeriod n none) →
    decodePeriod i.period = some i ∧ ∀ s : State, runPeriod i.period s = exec i s

/-- A code and payload are read as a request exactly when the code names one and the length is permitted for
it, with the counts and marks of the three variable requests (R162, R181; table 10.2). -/
def Obligations.PermittedLengthsAreRead : Prop :=
  ∀ (code : Byte) (payload : List Byte),
    (decodeRequest code payload).isSome = lengthPermitted code payload

/-! ## Laws that every step keeps -/

/-- Every step keeps the capacities (4 records a tag, 32 stored events, a stall list that is empty unless the
store is full, 16 non-free waits) and distinct handles (R2, R109, R115, R125). -/
def Obligations.StepKeepsCapacityAndHandles : Prop :=
  ∀ s t : State, step s = .next t → (s.CapacityLaw → t.CapacityLaw) ∧ (s.HandleLaw → t.HandleLaw)

/-- Every step keeps the law that no stored or stalled event matches the selector of a PENDING wait
(R132). -/
def Obligations.StepKeepsSelectorLaw : Prop :=
  ∀ s t : State, step s = .next t → s.SelectorLaw → t.SelectorLaw

/-- Every step keeps, for every tag, the law of R53 (at an OPEN or STEPPING gate the oldest GATED record is
stalled), the running of the hold timer exactly under the condition of R70, and steps above 0 while
STEPPING. -/
def Obligations.StepKeepsGateLaw : Prop :=
  ∀ s t : State, step s = .next t → s.GateLaw → t.GateLaw

/-- Every step keeps the stall list and the stall marks in agreement: each entry belongs to one stalled
record, each stalled record has an entry and is GATED or ANSWERED, and no record has two (R13, R17, R104,
R113, R114). -/
def Obligations.StepKeepsStallLaw : Prop :=
  ∀ s t : State, step s = .next t → s.StallLaw → t.StallLaw

/-- Every step keeps the response channel's law: an offered response is deliverable, and one is offered
whenever one is deliverable (R19, R20). The premise on stalls is itself kept by every step. -/
def Obligations.StepKeepsOfferLaw : Prop :=
  ∀ s t : State, step s = .next t → s.StallLaw → s.OfferLaw → t.OfferLaw

/-- Every step keeps slots and occupants in agreement: a slot is BUSY with a record exactly while one record
names it, with the access and beats issued, with the probe exactly while the probe is AT-MEMORY, and its
timer runs within its slot limit (R14, R81, R85, R91). -/
def Obligations.StepKeepsSlotLaw : Prop :=
  ∀ s t : State, step s = .next t → s.SlotLaw → t.SlotLaw

/-- Every step keeps the contents of records, probe and entries: well-formedness and data, answers, the
spending of a HOLD-BEFORE before its record passes, the probe's request and result, power-on contents of an
undefined entry, a permitted definition in a defined one, and a matched beat exactly in the latch of a
data-qualified entry (R5, R7, R16, R26, R27, R38, R53, R145). With capacities and the probe's contents sound it
keeps the link's: a held frame of 3 to 163 bytes that opens with no 0FFh and passes its CRC, a request buffer of
the first 163 of the bytes counted, and in a request period in progress no held response and that period's bytes
(R157, R159, R160, R164). -/
def Obligations.StepKeepsContents : Prop :=
  ∀ s t : State, step s = .next t →
    (s.RecordLaw → t.RecordLaw) ∧ (s.ProbeLaw → t.ProbeLaw) ∧ (s.EntryLaw → t.EntryLaw)
      ∧ (s.CapacityLaw → s.ProbeLaw → s.LinkLaw → t.LinkLaw)

/-- Every step keeps the law that while SYSRST_N is asserted the table and the stall list are empty, every
slot is FREE, no hold timer runs and no probe is in flight (R24, R99, R124, R146, R155). -/
def Obligations.StepKeepsAssertionLaw : Prop :=
  ∀ s t : State, step s = .next t → s.AssertionLaw → t.AssertionLaw

/-! ## The pins of the service link -/

/-- A chip-select period on its pins. LDO is undriven while LCS_N is high and during power-on, and edges of LCK
while LCS_N is high are not counted. A falling edge of LCS_N begins a period with the bit count at 0 and the
first bit of 0FFh on LDO. Eight rising edges of LCK make a byte, most significant bit first, and a period taken
bit by bit, with fewer than 8 bits behind its last complete byte or none, comes to what its complete bytes
alone come to, as a read period, a request, or a frame that the link refuses; without a complete byte it changes
nothing. LDO changes on falling edges, so that the levels the host samples at the rising edges are the bytes
sent, most significant bit first (R157, R158, R159, R161, R163, R166, R167, R172). -/
def Obligations.PinsCarryPeriods : Prop :=
  (∀ s : State, (s.lcsLow = false ∨ s.powered = false → s.ldoPin = none)
    ∧ (s.lcsLow = false → State.takePin .lckFall s = .next s ∧ ∀ ldi : Bool, State.takePin (.lckRise ldi) s = .next s)
    ∧ (s.takesPeriods = true → ∃ t, State.takePin .lcsFall s = .next t ∧ t.ldoPin = some true
        ∧ t.period = some ⟨[], [], 0xFF, none, 0, 0⟩ ∧ t = { s with lcsLow := true, period := t.period }))
  ∧ (∀ b : Byte, byteOfBits (byteBits b) = b ∧ byteBits b =
      [b.getLsbD 7, b.getLsbD 6, b.getLsbD 5, b.getLsbD 4, b.getLsbD 3, b.getLsbD 2, b.getLsbD 1, b.getLsbD 0])
  ∧ ∀ (s : State) (bytes : List Byte) (tail : List Bool), s.takesPeriods = true → s.period = none →
      s.held ≠ .ready [] → tail.length < 8 →
      s.takePins (periodPins bytes tail) = runPeriod bytes s
      ∧ (bytes = [] → runPeriod bytes s = .next s)
      ∧ (bytes ≠ [] → tail = [] → ∃ t, runPeriod bytes s = .next t
          ∧ s.ldoSamples (periodPins bytes tail) = t.ldo.flatMap fun b => (byteBits b).map some)

end Statements
end

