-- ==== Sys2Proof/Laws/State.lean ====
section
/-! SUPPORT. One lemma per field per update of the state, each true by definition. -/

namespace Sys2Proof.Machine

variable (s : State)

/-! ## setRecords -/

@[simp] theorem State.setRecords_pending (t : Tag) (l : List TransitRecord) : (s.setRecords t l).pending = s.pending := rfl
@[simp] theorem State.setRecords_pins (t : Tag) (l : List TransitRecord) : (s.setRecords t l).pins = s.pins := rfl
@[simp] theorem State.setRecords_powered (t : Tag) (l : List TransitRecord) : (s.setRecords t l).powered = s.powered := rfl
@[simp] theorem State.setRecords_clkRunning (t : Tag) (l : List TransitRecord) : (s.setRecords t l).clkRunning = s.clkRunning := rfl
@[simp] theorem State.setRecords_sysrst (t : Tag) (l : List TransitRecord) : (s.setRecords t l).sysrst = s.sysrst := rfl
@[simp] theorem State.setRecords_arrival (t : Tag) (l : List TransitRecord) : (s.setRecords t l).arrival = s.arrival := rfl
@[simp] theorem State.setRecords_offer (t : Tag) (l : List TransitRecord) : (s.setRecords t l).offer = s.offer := rfl
@[simp] theorem State.setRecords_lastTag (t : Tag) (l : List TransitRecord) : (s.setRecords t l).lastTag = s.lastTag := rfl
@[simp] theorem State.setRecords_lastResponse (t : Tag) (l : List TransitRecord) : (s.setRecords t l).lastResponse = s.lastResponse := rfl
@[simp] theorem State.setRecords_records (t : Tag) (l : List TransitRecord) :
    (s.setRecords t l).records = s.records.set t l := rfl
@[simp] theorem State.setRecords_nextId (t : Tag) (l : List TransitRecord) : (s.setRecords t l).nextId = s.nextId := rfl
@[simp] theorem State.setRecords_entries (t : Tag) (l : List TransitRecord) : (s.setRecords t l).entries = s.entries := rfl
@[simp] theorem State.setRecords_gates (t : Tag) (l : List TransitRecord) : (s.setRecords t l).gates = s.gates := rfl
@[simp] theorem State.setRecords_slots (t : Tag) (l : List TransitRecord) : (s.setRecords t l).slots = s.slots := rfl
@[simp] theorem State.setRecords_responseLimit (t : Tag) (l : List TransitRecord) : (s.setRecords t l).responseLimit = s.responseLimit := rfl
@[simp] theorem State.setRecords_arbiter (t : Tag) (l : List TransitRecord) : (s.setRecords t l).arbiter = s.arbiter := rfl
@[simp] theorem State.setRecords_memoryRequest (t : Tag) (l : List TransitRecord) : (s.setRecords t l).memoryRequest = s.memoryRequest := rfl
@[simp] theorem State.setRecords_store (t : Tag) (l : List TransitRecord) : (s.setRecords t l).store = s.store := rfl
@[simp] theorem State.setRecords_stalls (t : Tag) (l : List TransitRecord) : (s.setRecords t l).stalls = s.stalls := rfl
@[simp] theorem State.setRecords_lost (t : Tag) (l : List TransitRecord) : (s.setRecords t l).lost = s.lost := rfl
@[simp] theorem State.setRecords_sequence (t : Tag) (l : List TransitRecord) : (s.setRecords t l).sequence = s.sequence := rfl
@[simp] theorem State.setRecords_waitsPending (t : Tag) (l : List TransitRecord) : (s.setRecords t l).waitsPending = s.waitsPending := rfl
@[simp] theorem State.setRecords_waitsComplete (t : Tag) (l : List TransitRecord) : (s.setRecords t l).waitsComplete = s.waitsComplete := rfl
@[simp] theorem State.setRecords_enableCompletions (t : Tag) (l : List TransitRecord) : (s.setRecords t l).enableCompletions = s.enableCompletions := rfl
@[simp] theorem State.setRecords_enableStored (t : Tag) (l : List TransitRecord) : (s.setRecords t l).enableStored = s.enableStored := rfl
@[simp] theorem State.setRecords_probe (t : Tag) (l : List TransitRecord) : (s.setRecords t l).probe = s.probe := rfl
@[simp] theorem State.setRecords_lcsLow (t : Tag) (l : List TransitRecord) : (s.setRecords t l).lcsLow = s.lcsLow := rfl
@[simp] theorem State.setRecords_period (t : Tag) (l : List TransitRecord) : (s.setRecords t l).period = s.period := rfl
@[simp] theorem State.setRecords_held (t : Tag) (l : List TransitRecord) : (s.setRecords t l).held = s.held := rfl
@[simp] theorem State.setRecords_requestBuffer (t : Tag) (l : List TransitRecord) : (s.setRecords t l).requestBuffer = s.requestBuffer := rfl
@[simp] theorem State.setRecords_requestCount (t : Tag) (l : List TransitRecord) : (s.setRecords t l).requestCount = s.requestCount := rfl
@[simp] theorem State.setRecords_ldo (t : Tag) (l : List TransitRecord) : (s.setRecords t l).ldo = s.ldo := rfl

/-! ## setGate -/

@[simp] theorem State.setGate_pending (t : Tag) (g : Gate) : (s.setGate t g).pending = s.pending := rfl
@[simp] theorem State.setGate_pins (t : Tag) (g : Gate) : (s.setGate t g).pins = s.pins := rfl
@[simp] theorem State.setGate_powered (t : Tag) (g : Gate) : (s.setGate t g).powered = s.powered := rfl
@[simp] theorem State.setGate_clkRunning (t : Tag) (g : Gate) : (s.setGate t g).clkRunning = s.clkRunning := rfl
@[simp] theorem State.setGate_sysrst (t : Tag) (g : Gate) : (s.setGate t g).sysrst = s.sysrst := rfl
@[simp] theorem State.setGate_arrival (t : Tag) (g : Gate) : (s.setGate t g).arrival = s.arrival := rfl
@[simp] theorem State.setGate_offer (t : Tag) (g : Gate) : (s.setGate t g).offer = s.offer := rfl
@[simp] theorem State.setGate_lastTag (t : Tag) (g : Gate) : (s.setGate t g).lastTag = s.lastTag := rfl
@[simp] theorem State.setGate_lastResponse (t : Tag) (g : Gate) : (s.setGate t g).lastResponse = s.lastResponse := rfl
@[simp] theorem State.setGate_records (t : Tag) (g : Gate) : (s.setGate t g).records = s.records := rfl
@[simp] theorem State.setGate_nextId (t : Tag) (g : Gate) : (s.setGate t g).nextId = s.nextId := rfl
@[simp] theorem State.setGate_entries (t : Tag) (g : Gate) : (s.setGate t g).entries = s.entries := rfl
@[simp] theorem State.setGate_gates (t : Tag) (g : Gate) :
    (s.setGate t g).gates = s.gates.set t g := rfl
@[simp] theorem State.setGate_slots (t : Tag) (g : Gate) : (s.setGate t g).slots = s.slots := rfl
@[simp] theorem State.setGate_responseLimit (t : Tag) (g : Gate) : (s.setGate t g).responseLimit = s.responseLimit := rfl
@[simp] theorem State.setGate_arbiter (t : Tag) (g : Gate) : (s.setGate t g).arbiter = s.arbiter := rfl
@[simp] theorem State.setGate_memoryRequest (t : Tag) (g : Gate) : (s.setGate t g).memoryRequest = s.memoryRequest := rfl
@[simp] theorem State.setGate_store (t : Tag) (g : Gate) : (s.setGate t g).store = s.store := rfl
@[simp] theorem State.setGate_stalls (t : Tag) (g : Gate) : (s.setGate t g).stalls = s.stalls := rfl
@[simp] theorem State.setGate_lost (t : Tag) (g : Gate) : (s.setGate t g).lost = s.lost := rfl
@[simp] theorem State.setGate_sequence (t : Tag) (g : Gate) : (s.setGate t g).sequence = s.sequence := rfl
@[simp] theorem State.setGate_waitsPending (t : Tag) (g : Gate) : (s.setGate t g).waitsPending = s.waitsPending := rfl
@[simp] theorem State.setGate_waitsComplete (t : Tag) (g : Gate) : (s.setGate t g).waitsComplete = s.waitsComplete := rfl
@[simp] theorem State.setGate_enableCompletions (t : Tag) (g : Gate) : (s.setGate t g).enableCompletions = s.enableCompletions := rfl
@[simp] theorem State.setGate_enableStored (t : Tag) (g : Gate) : (s.setGate t g).enableStored = s.enableStored := rfl
@[simp] theorem State.setGate_probe (t : Tag) (g : Gate) : (s.setGate t g).probe = s.probe := rfl
@[simp] theorem State.setGate_lcsLow (t : Tag) (g : Gate) : (s.setGate t g).lcsLow = s.lcsLow := rfl
@[simp] theorem State.setGate_period (t : Tag) (g : Gate) : (s.setGate t g).period = s.period := rfl
@[simp] theorem State.setGate_held (t : Tag) (g : Gate) : (s.setGate t g).held = s.held := rfl
@[simp] theorem State.setGate_requestBuffer (t : Tag) (g : Gate) : (s.setGate t g).requestBuffer = s.requestBuffer := rfl
@[simp] theorem State.setGate_requestCount (t : Tag) (g : Gate) : (s.setGate t g).requestCount = s.requestCount := rfl
@[simp] theorem State.setGate_ldo (t : Tag) (g : Gate) : (s.setGate t g).ldo = s.ldo := rfl

/-! ## setEntry -/

@[simp] theorem State.setEntry_pending (i : WatchIndex) (e : WatchEntry) : (s.setEntry i e).pending = s.pending := rfl
@[simp] theorem State.setEntry_pins (i : WatchIndex) (e : WatchEntry) : (s.setEntry i e).pins = s.pins := rfl
@[simp] theorem State.setEntry_powered (i : WatchIndex) (e : WatchEntry) : (s.setEntry i e).powered = s.powered := rfl
@[simp] theorem State.setEntry_clkRunning (i : WatchIndex) (e : WatchEntry) : (s.setEntry i e).clkRunning = s.clkRunning := rfl
@[simp] theorem State.setEntry_sysrst (i : WatchIndex) (e : WatchEntry) : (s.setEntry i e).sysrst = s.sysrst := rfl
@[simp] theorem State.setEntry_arrival (i : WatchIndex) (e : WatchEntry) : (s.setEntry i e).arrival = s.arrival := rfl
@[simp] theorem State.setEntry_offer (i : WatchIndex) (e : WatchEntry) : (s.setEntry i e).offer = s.offer := rfl
@[simp] theorem State.setEntry_lastTag (i : WatchIndex) (e : WatchEntry) : (s.setEntry i e).lastTag = s.lastTag := rfl
@[simp] theorem State.setEntry_lastResponse (i : WatchIndex) (e : WatchEntry) : (s.setEntry i e).lastResponse = s.lastResponse := rfl
@[simp] theorem State.setEntry_records (i : WatchIndex) (e : WatchEntry) : (s.setEntry i e).records = s.records := rfl
@[simp] theorem State.setEntry_nextId (i : WatchIndex) (e : WatchEntry) : (s.setEntry i e).nextId = s.nextId := rfl
@[simp] theorem State.setEntry_entries (i : WatchIndex) (e : WatchEntry) :
    (s.setEntry i e).entries = s.entries.set i e := rfl
@[simp] theorem State.setEntry_gates (i : WatchIndex) (e : WatchEntry) : (s.setEntry i e).gates = s.gates := rfl
@[simp] theorem State.setEntry_slots (i : WatchIndex) (e : WatchEntry) : (s.setEntry i e).slots = s.slots := rfl
@[simp] theorem State.setEntry_responseLimit (i : WatchIndex) (e : WatchEntry) : (s.setEntry i e).responseLimit = s.responseLimit := rfl
@[simp] theorem State.setEntry_arbiter (i : WatchIndex) (e : WatchEntry) : (s.setEntry i e).arbiter = s.arbiter := rfl
@[simp] theorem State.setEntry_memoryRequest (i : WatchIndex) (e : WatchEntry) : (s.setEntry i e).memoryRequest = s.memoryRequest := rfl
@[simp] theorem State.setEntry_store (i : WatchIndex) (e : WatchEntry) : (s.setEntry i e).store = s.store := rfl
@[simp] theorem State.setEntry_stalls (i : WatchIndex) (e : WatchEntry) : (s.setEntry i e).stalls = s.stalls := rfl
@[simp] theorem State.setEntry_lost (i : WatchIndex) (e : WatchEntry) : (s.setEntry i e).lost = s.lost := rfl
@[simp] theorem State.setEntry_sequence (i : WatchIndex) (e : WatchEntry) : (s.setEntry i e).sequence = s.sequence := rfl
@[simp] theorem State.setEntry_waitsPending (i : WatchIndex) (e : WatchEntry) : (s.setEntry i e).waitsPending = s.waitsPending := rfl
@[simp] theorem State.setEntry_waitsComplete (i : WatchIndex) (e : WatchEntry) : (s.setEntry i e).waitsComplete = s.waitsComplete := rfl
@[simp] theorem State.setEntry_enableCompletions (i : WatchIndex) (e : WatchEntry) : (s.setEntry i e).enableCompletions = s.enableCompletions := rfl
@[simp] theorem State.setEntry_enableStored (i : WatchIndex) (e : WatchEntry) : (s.setEntry i e).enableStored = s.enableStored := rfl
@[simp] theorem State.setEntry_probe (i : WatchIndex) (e : WatchEntry) : (s.setEntry i e).probe = s.probe := rfl
@[simp] theorem State.setEntry_lcsLow (i : WatchIndex) (e : WatchEntry) : (s.setEntry i e).lcsLow = s.lcsLow := rfl
@[simp] theorem State.setEntry_period (i : WatchIndex) (e : WatchEntry) : (s.setEntry i e).period = s.period := rfl
@[simp] theorem State.setEntry_held (i : WatchIndex) (e : WatchEntry) : (s.setEntry i e).held = s.held := rfl
@[simp] theorem State.setEntry_requestBuffer (i : WatchIndex) (e : WatchEntry) : (s.setEntry i e).requestBuffer = s.requestBuffer := rfl
@[simp] theorem State.setEntry_requestCount (i : WatchIndex) (e : WatchEntry) : (s.setEntry i e).requestCount = s.requestCount := rfl
@[simp] theorem State.setEntry_ldo (i : WatchIndex) (e : WatchEntry) : (s.setEntry i e).ldo = s.ldo := rfl

/-! ## setSlot -/

@[simp] theorem State.setSlot_pending (k : SlotIndex) (v : Slot) : (s.setSlot k v).pending = s.pending := rfl
@[simp] theorem State.setSlot_pins (k : SlotIndex) (v : Slot) : (s.setSlot k v).pins = s.pins := rfl
@[simp] theorem State.setSlot_powered (k : SlotIndex) (v : Slot) : (s.setSlot k v).powered = s.powered := rfl
@[simp] theorem State.setSlot_clkRunning (k : SlotIndex) (v : Slot) : (s.setSlot k v).clkRunning = s.clkRunning := rfl
@[simp] theorem State.setSlot_sysrst (k : SlotIndex) (v : Slot) : (s.setSlot k v).sysrst = s.sysrst := rfl
@[simp] theorem State.setSlot_arrival (k : SlotIndex) (v : Slot) : (s.setSlot k v).arrival = s.arrival := rfl
@[simp] theorem State.setSlot_offer (k : SlotIndex) (v : Slot) : (s.setSlot k v).offer = s.offer := rfl
@[simp] theorem State.setSlot_lastTag (k : SlotIndex) (v : Slot) : (s.setSlot k v).lastTag = s.lastTag := rfl
@[simp] theorem State.setSlot_lastResponse (k : SlotIndex) (v : Slot) : (s.setSlot k v).lastResponse = s.lastResponse := rfl
@[simp] theorem State.setSlot_records (k : SlotIndex) (v : Slot) : (s.setSlot k v).records = s.records := rfl
@[simp] theorem State.setSlot_nextId (k : SlotIndex) (v : Slot) : (s.setSlot k v).nextId = s.nextId := rfl
@[simp] theorem State.setSlot_entries (k : SlotIndex) (v : Slot) : (s.setSlot k v).entries = s.entries := rfl
@[simp] theorem State.setSlot_gates (k : SlotIndex) (v : Slot) : (s.setSlot k v).gates = s.gates := rfl
@[simp] theorem State.setSlot_slots (k : SlotIndex) (v : Slot) :
    (s.setSlot k v).slots = s.slots.set k v := rfl
@[simp] theorem State.setSlot_responseLimit (k : SlotIndex) (v : Slot) : (s.setSlot k v).responseLimit = s.responseLimit := rfl
@[simp] theorem State.setSlot_arbiter (k : SlotIndex) (v : Slot) : (s.setSlot k v).arbiter = s.arbiter := rfl
@[simp] theorem State.setSlot_memoryRequest (k : SlotIndex) (v : Slot) : (s.setSlot k v).memoryRequest = s.memoryRequest := rfl
@[simp] theorem State.setSlot_store (k : SlotIndex) (v : Slot) : (s.setSlot k v).store = s.store := rfl
@[simp] theorem State.setSlot_stalls (k : SlotIndex) (v : Slot) : (s.setSlot k v).stalls = s.stalls := rfl
@[simp] theorem State.setSlot_lost (k : SlotIndex) (v : Slot) : (s.setSlot k v).lost = s.lost := rfl
@[simp] theorem State.setSlot_sequence (k : SlotIndex) (v : Slot) : (s.setSlot k v).sequence = s.sequence := rfl
@[simp] theorem State.setSlot_waitsPending (k : SlotIndex) (v : Slot) : (s.setSlot k v).waitsPending = s.waitsPending := rfl
@[simp] theorem State.setSlot_waitsComplete (k : SlotIndex) (v : Slot) : (s.setSlot k v).waitsComplete = s.waitsComplete := rfl
@[simp] theorem State.setSlot_enableCompletions (k : SlotIndex) (v : Slot) : (s.setSlot k v).enableCompletions = s.enableCompletions := rfl
@[simp] theorem State.setSlot_enableStored (k : SlotIndex) (v : Slot) : (s.setSlot k v).enableStored = s.enableStored := rfl
@[simp] theorem State.setSlot_probe (k : SlotIndex) (v : Slot) : (s.setSlot k v).probe = s.probe := rfl
@[simp] theorem State.setSlot_lcsLow (k : SlotIndex) (v : Slot) : (s.setSlot k v).lcsLow = s.lcsLow := rfl
@[simp] theorem State.setSlot_period (k : SlotIndex) (v : Slot) : (s.setSlot k v).period = s.period := rfl
@[simp] theorem State.setSlot_held (k : SlotIndex) (v : Slot) : (s.setSlot k v).held = s.held := rfl
@[simp] theorem State.setSlot_requestBuffer (k : SlotIndex) (v : Slot) : (s.setSlot k v).requestBuffer = s.requestBuffer := rfl
@[simp] theorem State.setSlot_requestCount (k : SlotIndex) (v : Slot) : (s.setSlot k v).requestCount = s.requestCount := rfl
@[simp] theorem State.setSlot_ldo (k : SlotIndex) (v : Slot) : (s.setSlot k v).ldo = s.ldo := rfl

/-! ## delivered -/

@[simp] theorem State.delivered_pending : (s.delivered).pending = s.pending := rfl
@[simp] theorem State.delivered_pins : (s.delivered).pins = s.pins := rfl
@[simp] theorem State.delivered_powered : (s.delivered).powered = s.powered := rfl
@[simp] theorem State.delivered_clkRunning : (s.delivered).clkRunning = s.clkRunning := rfl
@[simp] theorem State.delivered_sysrst : (s.delivered).sysrst = s.sysrst := rfl
@[simp] theorem State.delivered_arrival : (s.delivered).arrival = s.arrival := rfl
@[simp] theorem State.delivered_offer : (s.delivered).offer = s.offer := rfl
@[simp] theorem State.delivered_lastTag : (s.delivered).lastTag = s.lastTag := rfl
@[simp] theorem State.delivered_lastResponse : (s.delivered).lastResponse = s.lastResponse := rfl
@[simp] theorem State.delivered_records : (s.delivered).records = s.records := rfl
@[simp] theorem State.delivered_nextId : (s.delivered).nextId = s.nextId := rfl
@[simp] theorem State.delivered_entries : (s.delivered).entries = s.entries := rfl
@[simp] theorem State.delivered_gates : (s.delivered).gates = s.gates := rfl
@[simp] theorem State.delivered_slots : (s.delivered).slots = s.slots := rfl
@[simp] theorem State.delivered_responseLimit : (s.delivered).responseLimit = s.responseLimit := rfl
@[simp] theorem State.delivered_arbiter : (s.delivered).arbiter = s.arbiter := rfl
@[simp] theorem State.delivered_memoryRequest : (s.delivered).memoryRequest = s.memoryRequest := rfl
@[simp] theorem State.delivered_store : (s.delivered).store = s.store := rfl
@[simp] theorem State.delivered_stalls : (s.delivered).stalls = s.stalls := rfl
@[simp] theorem State.delivered_lost :
    (s.delivered).lost = 0 := rfl
@[simp] theorem State.delivered_sequence :
    (s.delivered).sequence = s.sequence + 1 := rfl
@[simp] theorem State.delivered_waitsPending : (s.delivered).waitsPending = s.waitsPending := rfl
@[simp] theorem State.delivered_waitsComplete : (s.delivered).waitsComplete = s.waitsComplete := rfl
@[simp] theorem State.delivered_enableCompletions : (s.delivered).enableCompletions = s.enableCompletions := rfl
@[simp] theorem State.delivered_enableStored : (s.delivered).enableStored = s.enableStored := rfl
@[simp] theorem State.delivered_probe : (s.delivered).probe = s.probe := rfl
@[simp] theorem State.delivered_lcsLow : (s.delivered).lcsLow = s.lcsLow := rfl
@[simp] theorem State.delivered_period : (s.delivered).period = s.period := rfl
@[simp] theorem State.delivered_held : (s.delivered).held = s.held := rfl
@[simp] theorem State.delivered_requestBuffer : (s.delivered).requestBuffer = s.requestBuffer := rfl
@[simp] theorem State.delivered_requestCount : (s.delivered).requestCount = s.requestCount := rfl
@[simp] theorem State.delivered_ldo : (s.delivered).ldo = s.ldo := rfl

/-! ## deliverToStore -/

@[simp] theorem State.deliverToStore_pending (e : Event) : (s.deliverToStore e).pending = s.pending := rfl
@[simp] theorem State.deliverToStore_pins (e : Event) : (s.deliverToStore e).pins = s.pins := rfl
@[simp] theorem State.deliverToStore_powered (e : Event) : (s.deliverToStore e).powered = s.powered := rfl
@[simp] theorem State.deliverToStore_clkRunning (e : Event) : (s.deliverToStore e).clkRunning = s.clkRunning := rfl
@[simp] theorem State.deliverToStore_sysrst (e : Event) : (s.deliverToStore e).sysrst = s.sysrst := rfl
@[simp] theorem State.deliverToStore_arrival (e : Event) : (s.deliverToStore e).arrival = s.arrival := rfl
@[simp] theorem State.deliverToStore_offer (e : Event) : (s.deliverToStore e).offer = s.offer := rfl
@[simp] theorem State.deliverToStore_lastTag (e : Event) : (s.deliverToStore e).lastTag = s.lastTag := rfl
@[simp] theorem State.deliverToStore_lastResponse (e : Event) : (s.deliverToStore e).lastResponse = s.lastResponse := rfl
@[simp] theorem State.deliverToStore_records (e : Event) : (s.deliverToStore e).records = s.records := rfl
@[simp] theorem State.deliverToStore_nextId (e : Event) : (s.deliverToStore e).nextId = s.nextId := rfl
@[simp] theorem State.deliverToStore_entries (e : Event) : (s.deliverToStore e).entries = s.entries := rfl
@[simp] theorem State.deliverToStore_gates (e : Event) : (s.deliverToStore e).gates = s.gates := rfl
@[simp] theorem State.deliverToStore_slots (e : Event) : (s.deliverToStore e).slots = s.slots := rfl
@[simp] theorem State.deliverToStore_responseLimit (e : Event) : (s.deliverToStore e).responseLimit = s.responseLimit := rfl
@[simp] theorem State.deliverToStore_arbiter (e : Event) : (s.deliverToStore e).arbiter = s.arbiter := rfl
@[simp] theorem State.deliverToStore_memoryRequest (e : Event) : (s.deliverToStore e).memoryRequest = s.memoryRequest := rfl
@[simp] theorem State.deliverToStore_store (e : Event) :
    (s.deliverToStore e).store = s.store ++ [s.stamp e] := rfl
@[simp] theorem State.deliverToStore_stalls (e : Event) : (s.deliverToStore e).stalls = s.stalls := rfl
@[simp] theorem State.deliverToStore_lost (e : Event) :
    (s.deliverToStore e).lost = 0 := rfl
@[simp] theorem State.deliverToStore_sequence (e : Event) :
    (s.deliverToStore e).sequence = s.sequence + 1 := rfl
@[simp] theorem State.deliverToStore_waitsPending (e : Event) : (s.deliverToStore e).waitsPending = s.waitsPending := rfl
@[simp] theorem State.deliverToStore_waitsComplete (e : Event) : (s.deliverToStore e).waitsComplete = s.waitsComplete := rfl
@[simp] theorem State.deliverToStore_enableCompletions (e : Event) : (s.deliverToStore e).enableCompletions = s.enableCompletions := rfl
@[simp] theorem State.deliverToStore_enableStored (e : Event) : (s.deliverToStore e).enableStored = s.enableStored := rfl
@[simp] theorem State.deliverToStore_probe (e : Event) : (s.deliverToStore e).probe = s.probe := rfl
@[simp] theorem State.deliverToStore_lcsLow (e : Event) : (s.deliverToStore e).lcsLow = s.lcsLow := rfl
@[simp] theorem State.deliverToStore_period (e : Event) : (s.deliverToStore e).period = s.period := rfl
@[simp] theorem State.deliverToStore_held (e : Event) : (s.deliverToStore e).held = s.held := rfl
@[simp] theorem State.deliverToStore_requestBuffer (e : Event) : (s.deliverToStore e).requestBuffer = s.requestBuffer := rfl
@[simp] theorem State.deliverToStore_requestCount (e : Event) : (s.deliverToStore e).requestCount = s.requestCount := rfl
@[simp] theorem State.deliverToStore_ldo (e : Event) : (s.deliverToStore e).ldo = s.ldo := rfl

/-! ## deliverToWait -/

@[simp] theorem State.deliverToWait_pending (e : Event) (h : Byte) (sel : Selector) : (s.deliverToWait e h sel).pending = s.pending := rfl
@[simp] theorem State.deliverToWait_pins (e : Event) (h : Byte) (sel : Selector) : (s.deliverToWait e h sel).pins = s.pins := rfl
@[simp] theorem State.deliverToWait_powered (e : Event) (h : Byte) (sel : Selector) : (s.deliverToWait e h sel).powered = s.powered := rfl
@[simp] theorem State.deliverToWait_clkRunning (e : Event) (h : Byte) (sel : Selector) : (s.deliverToWait e h sel).clkRunning = s.clkRunning := rfl
@[simp] theorem State.deliverToWait_sysrst (e : Event) (h : Byte) (sel : Selector) : (s.deliverToWait e h sel).sysrst = s.sysrst := rfl
@[simp] theorem State.deliverToWait_arrival (e : Event) (h : Byte) (sel : Selector) : (s.deliverToWait e h sel).arrival = s.arrival := rfl
@[simp] theorem State.deliverToWait_offer (e : Event) (h : Byte) (sel : Selector) : (s.deliverToWait e h sel).offer = s.offer := rfl
@[simp] theorem State.deliverToWait_lastTag (e : Event) (h : Byte) (sel : Selector) : (s.deliverToWait e h sel).lastTag = s.lastTag := rfl
@[simp] theorem State.deliverToWait_lastResponse (e : Event) (h : Byte) (sel : Selector) : (s.deliverToWait e h sel).lastResponse = s.lastResponse := rfl
@[simp] theorem State.deliverToWait_records (e : Event) (h : Byte) (sel : Selector) : (s.deliverToWait e h sel).records = s.records := rfl
@[simp] theorem State.deliverToWait_nextId (e : Event) (h : Byte) (sel : Selector) : (s.deliverToWait e h sel).nextId = s.nextId := rfl
@[simp] theorem State.deliverToWait_entries (e : Event) (h : Byte) (sel : Selector) : (s.deliverToWait e h sel).entries = s.entries := rfl
@[simp] theorem State.deliverToWait_gates (e : Event) (h : Byte) (sel : Selector) : (s.deliverToWait e h sel).gates = s.gates := rfl
@[simp] theorem State.deliverToWait_slots (e : Event) (h : Byte) (sel : Selector) : (s.deliverToWait e h sel).slots = s.slots := rfl
@[simp] theorem State.deliverToWait_responseLimit (e : Event) (h : Byte) (sel : Selector) : (s.deliverToWait e h sel).responseLimit = s.responseLimit := rfl
@[simp] theorem State.deliverToWait_arbiter (e : Event) (h : Byte) (sel : Selector) : (s.deliverToWait e h sel).arbiter = s.arbiter := rfl
@[simp] theorem State.deliverToWait_memoryRequest (e : Event) (h : Byte) (sel : Selector) : (s.deliverToWait e h sel).memoryRequest = s.memoryRequest := rfl
@[simp] theorem State.deliverToWait_store (e : Event) (h : Byte) (sel : Selector) : (s.deliverToWait e h sel).store = s.store := rfl
@[simp] theorem State.deliverToWait_stalls (e : Event) (h : Byte) (sel : Selector) : (s.deliverToWait e h sel).stalls = s.stalls := rfl
@[simp] theorem State.deliverToWait_lost (e : Event) (h : Byte) (sel : Selector) :
    (s.deliverToWait e h sel).lost = 0 := rfl
@[simp] theorem State.deliverToWait_sequence (e : Event) (h : Byte) (sel : Selector) :
    (s.deliverToWait e h sel).sequence = s.sequence + 1 := rfl
@[simp] theorem State.deliverToWait_waitsPending (e : Event) (h : Byte) (sel : Selector) : (s.deliverToWait e h sel).waitsPending = s.waitsPending := rfl
@[simp] theorem State.deliverToWait_waitsComplete (e : Event) (h : Byte) (sel : Selector) :
    (s.deliverToWait e h sel).waitsComplete = s.waitsComplete ++ [CompleteWait.mk h sel (s.stamp e)] := rfl
@[simp] theorem State.deliverToWait_enableCompletions (e : Event) (h : Byte) (sel : Selector) : (s.deliverToWait e h sel).enableCompletions = s.enableCompletions := rfl
@[simp] theorem State.deliverToWait_enableStored (e : Event) (h : Byte) (sel : Selector) : (s.deliverToWait e h sel).enableStored = s.enableStored := rfl
@[simp] theorem State.deliverToWait_probe (e : Event) (h : Byte) (sel : Selector) : (s.deliverToWait e h sel).probe = s.probe := rfl
@[simp] theorem State.deliverToWait_lcsLow (e : Event) (h : Byte) (sel : Selector) : (s.deliverToWait e h sel).lcsLow = s.lcsLow := rfl
@[simp] theorem State.deliverToWait_period (e : Event) (h : Byte) (sel : Selector) : (s.deliverToWait e h sel).period = s.period := rfl
@[simp] theorem State.deliverToWait_held (e : Event) (h : Byte) (sel : Selector) : (s.deliverToWait e h sel).held = s.held := rfl
@[simp] theorem State.deliverToWait_requestBuffer (e : Event) (h : Byte) (sel : Selector) : (s.deliverToWait e h sel).requestBuffer = s.requestBuffer := rfl
@[simp] theorem State.deliverToWait_requestCount (e : Event) (h : Byte) (sel : Selector) : (s.deliverToWait e h sel).requestCount = s.requestCount := rfl
@[simp] theorem State.deliverToWait_ldo (e : Event) (h : Byte) (sel : Selector) : (s.deliverToWait e h sel).ldo = s.ldo := rfl

/-! ## endPeriod -/

@[simp] theorem State.endPeriod_pending (bytes : List Byte) (held : HeldResponse) : (s.endPeriod bytes held).pending = s.pending := rfl
@[simp] theorem State.endPeriod_pins (bytes : List Byte) (held : HeldResponse) : (s.endPeriod bytes held).pins = s.pins := rfl
@[simp] theorem State.endPeriod_powered (bytes : List Byte) (held : HeldResponse) : (s.endPeriod bytes held).powered = s.powered := rfl
@[simp] theorem State.endPeriod_clkRunning (bytes : List Byte) (held : HeldResponse) : (s.endPeriod bytes held).clkRunning = s.clkRunning := rfl
@[simp] theorem State.endPeriod_sysrst (bytes : List Byte) (held : HeldResponse) : (s.endPeriod bytes held).sysrst = s.sysrst := rfl
@[simp] theorem State.endPeriod_arrival (bytes : List Byte) (held : HeldResponse) : (s.endPeriod bytes held).arrival = s.arrival := rfl
@[simp] theorem State.endPeriod_offer (bytes : List Byte) (held : HeldResponse) : (s.endPeriod bytes held).offer = s.offer := rfl
@[simp] theorem State.endPeriod_lastTag (bytes : List Byte) (held : HeldResponse) : (s.endPeriod bytes held).lastTag = s.lastTag := rfl
@[simp] theorem State.endPeriod_lastResponse (bytes : List Byte) (held : HeldResponse) : (s.endPeriod bytes held).lastResponse = s.lastResponse := rfl
@[simp] theorem State.endPeriod_records (bytes : List Byte) (held : HeldResponse) : (s.endPeriod bytes held).records = s.records := rfl
@[simp] theorem State.endPeriod_nextId (bytes : List Byte) (held : HeldResponse) : (s.endPeriod bytes held).nextId = s.nextId := rfl
@[simp] theorem State.endPeriod_entries (bytes : List Byte) (held : HeldResponse) : (s.endPeriod bytes held).entries = s.entries := rfl
@[simp] theorem State.endPeriod_gates (bytes : List Byte) (held : HeldResponse) : (s.endPeriod bytes held).gates = s.gates := rfl
@[simp] theorem State.endPeriod_slots (bytes : List Byte) (held : HeldResponse) : (s.endPeriod bytes held).slots = s.slots := rfl
@[simp] theorem State.endPeriod_responseLimit (bytes : List Byte) (held : HeldResponse) : (s.endPeriod bytes held).responseLimit = s.responseLimit := rfl
@[simp] theorem State.endPeriod_arbiter (bytes : List Byte) (held : HeldResponse) : (s.endPeriod bytes held).arbiter = s.arbiter := rfl
@[simp] theorem State.endPeriod_memoryRequest (bytes : List Byte) (held : HeldResponse) : (s.endPeriod bytes held).memoryRequest = s.memoryRequest := rfl
@[simp] theorem State.endPeriod_store (bytes : List Byte) (held : HeldResponse) : (s.endPeriod bytes held).store = s.store := rfl
@[simp] theorem State.endPeriod_stalls (bytes : List Byte) (held : HeldResponse) : (s.endPeriod bytes held).stalls = s.stalls := rfl
@[simp] theorem State.endPeriod_lost (bytes : List Byte) (held : HeldResponse) : (s.endPeriod bytes held).lost = s.lost := rfl
@[simp] theorem State.endPeriod_sequence (bytes : List Byte) (held : HeldResponse) : (s.endPeriod bytes held).sequence = s.sequence := rfl
@[simp] theorem State.endPeriod_waitsPending (bytes : List Byte) (held : HeldResponse) : (s.endPeriod bytes held).waitsPending = s.waitsPending := rfl
@[simp] theorem State.endPeriod_waitsComplete (bytes : List Byte) (held : HeldResponse) : (s.endPeriod bytes held).waitsComplete = s.waitsComplete := rfl
@[simp] theorem State.endPeriod_enableCompletions (bytes : List Byte) (held : HeldResponse) : (s.endPeriod bytes held).enableCompletions = s.enableCompletions := rfl
@[simp] theorem State.endPeriod_enableStored (bytes : List Byte) (held : HeldResponse) : (s.endPeriod bytes held).enableStored = s.enableStored := rfl
@[simp] theorem State.endPeriod_probe (bytes : List Byte) (held : HeldResponse) : (s.endPeriod bytes held).probe = s.probe := rfl
@[simp] theorem State.endPeriod_lcsLow (bytes : List Byte) (held : HeldResponse) : (s.endPeriod bytes held).lcsLow = s.lcsLow := rfl
@[simp] theorem State.endPeriod_period (bytes : List Byte) (held : HeldResponse) : (s.endPeriod bytes held).period = s.period := rfl
@[simp] theorem State.endPeriod_held (bytes : List Byte) (held : HeldResponse) :
    (s.endPeriod bytes held).held = held := rfl
@[simp] theorem State.endPeriod_requestBuffer (bytes : List Byte) (held : HeldResponse) :
    (s.endPeriod bytes held).requestBuffer = bytes.take 163 := rfl
@[simp] theorem State.endPeriod_requestCount (bytes : List Byte) (held : HeldResponse) :
    (s.endPeriod bytes held).requestCount = bytes.length := rfl
@[simp] theorem State.endPeriod_ldo (bytes : List Byte) (held : HeldResponse) :
    (s.endPeriod bytes held).ldo = List.replicate bytes.length 0xFF := rfl

/-! ## addRecord -/

@[simp] theorem State.addRecord_pending (t : Tag) (r : TransitRecord) : (s.addRecord t r).pending = s.pending := rfl
@[simp] theorem State.addRecord_pins (t : Tag) (r : TransitRecord) : (s.addRecord t r).pins = s.pins := rfl
@[simp] theorem State.addRecord_powered (t : Tag) (r : TransitRecord) : (s.addRecord t r).powered = s.powered := rfl
@[simp] theorem State.addRecord_clkRunning (t : Tag) (r : TransitRecord) : (s.addRecord t r).clkRunning = s.clkRunning := rfl
@[simp] theorem State.addRecord_sysrst (t : Tag) (r : TransitRecord) : (s.addRecord t r).sysrst = s.sysrst := rfl
@[simp] theorem State.addRecord_arrival (t : Tag) (r : TransitRecord) :
    (s.addRecord t r).arrival = s.arrival + 1 := rfl
@[simp] theorem State.addRecord_offer (t : Tag) (r : TransitRecord) : (s.addRecord t r).offer = s.offer := rfl
@[simp] theorem State.addRecord_lastTag (t : Tag) (r : TransitRecord) : (s.addRecord t r).lastTag = s.lastTag := rfl
@[simp] theorem State.addRecord_lastResponse (t : Tag) (r : TransitRecord) : (s.addRecord t r).lastResponse = s.lastResponse := rfl
@[simp] theorem State.addRecord_records (t : Tag) (r : TransitRecord) :
    (s.addRecord t r).records = s.records.set t (s.records[t] ++ [r]) := rfl
@[simp] theorem State.addRecord_nextId (t : Tag) (r : TransitRecord) :
    (s.addRecord t r).nextId = s.nextId + 1 := rfl
@[simp] theorem State.addRecord_entries (t : Tag) (r : TransitRecord) : (s.addRecord t r).entries = s.entries := rfl
@[simp] theorem State.addRecord_gates (t : Tag) (r : TransitRecord) : (s.addRecord t r).gates = s.gates := rfl
@[simp] theorem State.addRecord_slots (t : Tag) (r : TransitRecord) : (s.addRecord t r).slots = s.slots := rfl
@[simp] theorem State.addRecord_responseLimit (t : Tag) (r : TransitRecord) : (s.addRecord t r).responseLimit = s.responseLimit := rfl
@[simp] theorem State.addRecord_arbiter (t : Tag) (r : TransitRecord) : (s.addRecord t r).arbiter = s.arbiter := rfl
@[simp] theorem State.addRecord_memoryRequest (t : Tag) (r : TransitRecord) : (s.addRecord t r).memoryRequest = s.memoryRequest := rfl
@[simp] theorem State.addRecord_store (t : Tag) (r : TransitRecord) : (s.addRecord t r).store = s.store := rfl
@[simp] theorem State.addRecord_stalls (t : Tag) (r : TransitRecord) : (s.addRecord t r).stalls = s.stalls := rfl
@[simp] theorem State.addRecord_lost (t : Tag) (r : TransitRecord) : (s.addRecord t r).lost = s.lost := rfl
@[simp] theorem State.addRecord_sequence (t : Tag) (r : TransitRecord) : (s.addRecord t r).sequence = s.sequence := rfl
@[simp] theorem State.addRecord_waitsPending (t : Tag) (r : TransitRecord) : (s.addRecord t r).waitsPending = s.waitsPending := rfl
@[simp] theorem State.addRecord_waitsComplete (t : Tag) (r : TransitRecord) : (s.addRecord t r).waitsComplete = s.waitsComplete := rfl
@[simp] theorem State.addRecord_enableCompletions (t : Tag) (r : TransitRecord) : (s.addRecord t r).enableCompletions = s.enableCompletions := rfl
@[simp] theorem State.addRecord_enableStored (t : Tag) (r : TransitRecord) : (s.addRecord t r).enableStored = s.enableStored := rfl
@[simp] theorem State.addRecord_probe (t : Tag) (r : TransitRecord) : (s.addRecord t r).probe = s.probe := rfl
@[simp] theorem State.addRecord_lcsLow (t : Tag) (r : TransitRecord) : (s.addRecord t r).lcsLow = s.lcsLow := rfl
@[simp] theorem State.addRecord_period (t : Tag) (r : TransitRecord) : (s.addRecord t r).period = s.period := rfl
@[simp] theorem State.addRecord_held (t : Tag) (r : TransitRecord) : (s.addRecord t r).held = s.held := rfl
@[simp] theorem State.addRecord_requestBuffer (t : Tag) (r : TransitRecord) : (s.addRecord t r).requestBuffer = s.requestBuffer := rfl
@[simp] theorem State.addRecord_requestCount (t : Tag) (r : TransitRecord) : (s.addRecord t r).requestCount = s.requestCount := rfl
@[simp] theorem State.addRecord_ldo (t : Tag) (r : TransitRecord) : (s.addRecord t r).ldo = s.ldo := rfl

/-! ## markStall -/

@[simp] theorem State.markStall_pending (k : RecordLink) (b : Bool) : (s.markStall k b).pending = s.pending := rfl
@[simp] theorem State.markStall_pins (k : RecordLink) (b : Bool) : (s.markStall k b).pins = s.pins := rfl
@[simp] theorem State.markStall_powered (k : RecordLink) (b : Bool) : (s.markStall k b).powered = s.powered := rfl
@[simp] theorem State.markStall_clkRunning (k : RecordLink) (b : Bool) : (s.markStall k b).clkRunning = s.clkRunning := rfl
@[simp] theorem State.markStall_sysrst (k : RecordLink) (b : Bool) : (s.markStall k b).sysrst = s.sysrst := rfl
@[simp] theorem State.markStall_arrival (k : RecordLink) (b : Bool) : (s.markStall k b).arrival = s.arrival := rfl
@[simp] theorem State.markStall_offer (k : RecordLink) (b : Bool) : (s.markStall k b).offer = s.offer := rfl
@[simp] theorem State.markStall_lastTag (k : RecordLink) (b : Bool) : (s.markStall k b).lastTag = s.lastTag := rfl
@[simp] theorem State.markStall_lastResponse (k : RecordLink) (b : Bool) : (s.markStall k b).lastResponse = s.lastResponse := rfl
@[simp] theorem State.markStall_nextId (k : RecordLink) (b : Bool) : (s.markStall k b).nextId = s.nextId := rfl
@[simp] theorem State.markStall_entries (k : RecordLink) (b : Bool) : (s.markStall k b).entries = s.entries := rfl
@[simp] theorem State.markStall_gates (k : RecordLink) (b : Bool) : (s.markStall k b).gates = s.gates := rfl
@[simp] theorem State.markStall_slots (k : RecordLink) (b : Bool) : (s.markStall k b).slots = s.slots := rfl
@[simp] theorem State.markStall_responseLimit (k : RecordLink) (b : Bool) : (s.markStall k b).responseLimit = s.responseLimit := rfl
@[simp] theorem State.markStall_arbiter (k : RecordLink) (b : Bool) : (s.markStall k b).arbiter = s.arbiter := rfl
@[simp] theorem State.markStall_memoryRequest (k : RecordLink) (b : Bool) : (s.markStall k b).memoryRequest = s.memoryRequest := rfl
@[simp] theorem State.markStall_store (k : RecordLink) (b : Bool) : (s.markStall k b).store = s.store := rfl
@[simp] theorem State.markStall_stalls (k : RecordLink) (b : Bool) : (s.markStall k b).stalls = s.stalls := rfl
@[simp] theorem State.markStall_lost (k : RecordLink) (b : Bool) : (s.markStall k b).lost = s.lost := rfl
@[simp] theorem State.markStall_sequence (k : RecordLink) (b : Bool) : (s.markStall k b).sequence = s.sequence := rfl
@[simp] theorem State.markStall_waitsPending (k : RecordLink) (b : Bool) : (s.markStall k b).waitsPending = s.waitsPending := rfl
@[simp] theorem State.markStall_waitsComplete (k : RecordLink) (b : Bool) : (s.markStall k b).waitsComplete = s.waitsComplete := rfl
@[simp] theorem State.markStall_enableCompletions (k : RecordLink) (b : Bool) : (s.markStall k b).enableCompletions = s.enableCompletions := rfl
@[simp] theorem State.markStall_enableStored (k : RecordLink) (b : Bool) : (s.markStall k b).enableStored = s.enableStored := rfl
@[simp] theorem State.markStall_probe (k : RecordLink) (b : Bool) : (s.markStall k b).probe = s.probe := rfl
@[simp] theorem State.markStall_lcsLow (k : RecordLink) (b : Bool) : (s.markStall k b).lcsLow = s.lcsLow := rfl
@[simp] theorem State.markStall_period (k : RecordLink) (b : Bool) : (s.markStall k b).period = s.period := rfl
@[simp] theorem State.markStall_held (k : RecordLink) (b : Bool) : (s.markStall k b).held = s.held := rfl
@[simp] theorem State.markStall_requestBuffer (k : RecordLink) (b : Bool) : (s.markStall k b).requestBuffer = s.requestBuffer := rfl
@[simp] theorem State.markStall_requestCount (k : RecordLink) (b : Bool) : (s.markStall k b).requestCount = s.requestCount := rfl
@[simp] theorem State.markStall_ldo (k : RecordLink) (b : Bool) : (s.markStall k b).ldo = s.ldo := rfl

/-! ## settleTimer -/

@[simp] theorem State.settleTimer_pending (t : Tag) : (s.settleTimer t).pending = s.pending := rfl
@[simp] theorem State.settleTimer_pins (t : Tag) : (s.settleTimer t).pins = s.pins := rfl
@[simp] theorem State.settleTimer_powered (t : Tag) : (s.settleTimer t).powered = s.powered := rfl
@[simp] theorem State.settleTimer_clkRunning (t : Tag) : (s.settleTimer t).clkRunning = s.clkRunning := rfl
@[simp] theorem State.settleTimer_sysrst (t : Tag) : (s.settleTimer t).sysrst = s.sysrst := rfl
@[simp] theorem State.settleTimer_arrival (t : Tag) : (s.settleTimer t).arrival = s.arrival := rfl
@[simp] theorem State.settleTimer_offer (t : Tag) : (s.settleTimer t).offer = s.offer := rfl
@[simp] theorem State.settleTimer_lastTag (t : Tag) : (s.settleTimer t).lastTag = s.lastTag := rfl
@[simp] theorem State.settleTimer_lastResponse (t : Tag) : (s.settleTimer t).lastResponse = s.lastResponse := rfl
@[simp] theorem State.settleTimer_records (t : Tag) : (s.settleTimer t).records = s.records := rfl
@[simp] theorem State.settleTimer_nextId (t : Tag) : (s.settleTimer t).nextId = s.nextId := rfl
@[simp] theorem State.settleTimer_entries (t : Tag) : (s.settleTimer t).entries = s.entries := rfl
@[simp] theorem State.settleTimer_gates (t : Tag) :
    (s.settleTimer t).gates = s.gates.set t (s.gates[t].settleTimer (hasGated s.records[t])) := rfl
@[simp] theorem State.settleTimer_slots (t : Tag) : (s.settleTimer t).slots = s.slots := rfl
@[simp] theorem State.settleTimer_responseLimit (t : Tag) : (s.settleTimer t).responseLimit = s.responseLimit := rfl
@[simp] theorem State.settleTimer_arbiter (t : Tag) : (s.settleTimer t).arbiter = s.arbiter := rfl
@[simp] theorem State.settleTimer_memoryRequest (t : Tag) : (s.settleTimer t).memoryRequest = s.memoryRequest := rfl
@[simp] theorem State.settleTimer_store (t : Tag) : (s.settleTimer t).store = s.store := rfl
@[simp] theorem State.settleTimer_stalls (t : Tag) : (s.settleTimer t).stalls = s.stalls := rfl
@[simp] theorem State.settleTimer_lost (t : Tag) : (s.settleTimer t).lost = s.lost := rfl
@[simp] theorem State.settleTimer_sequence (t : Tag) : (s.settleTimer t).sequence = s.sequence := rfl
@[simp] theorem State.settleTimer_waitsPending (t : Tag) : (s.settleTimer t).waitsPending = s.waitsPending := rfl
@[simp] theorem State.settleTimer_waitsComplete (t : Tag) : (s.settleTimer t).waitsComplete = s.waitsComplete := rfl
@[simp] theorem State.settleTimer_enableCompletions (t : Tag) : (s.settleTimer t).enableCompletions = s.enableCompletions := rfl
@[simp] theorem State.settleTimer_enableStored (t : Tag) : (s.settleTimer t).enableStored = s.enableStored := rfl
@[simp] theorem State.settleTimer_probe (t : Tag) : (s.settleTimer t).probe = s.probe := rfl
@[simp] theorem State.settleTimer_lcsLow (t : Tag) : (s.settleTimer t).lcsLow = s.lcsLow := rfl
@[simp] theorem State.settleTimer_period (t : Tag) : (s.settleTimer t).period = s.period := rfl
@[simp] theorem State.settleTimer_held (t : Tag) : (s.settleTimer t).held = s.held := rfl
@[simp] theorem State.settleTimer_requestBuffer (t : Tag) : (s.settleTimer t).requestBuffer = s.requestBuffer := rfl
@[simp] theorem State.settleTimer_requestCount (t : Tag) : (s.settleTimer t).requestCount = s.requestCount := rfl
@[simp] theorem State.settleTimer_ldo (t : Tag) : (s.settleTimer t).ldo = s.ldo := rfl

/-! ## consider -/

@[simp] theorem State.consider_pending (t : Tag) : (s.consider t).pending = s.pending := rfl
@[simp] theorem State.consider_pins (t : Tag) : (s.consider t).pins = s.pins := rfl
@[simp] theorem State.consider_powered (t : Tag) : (s.consider t).powered = s.powered := rfl
@[simp] theorem State.consider_clkRunning (t : Tag) : (s.consider t).clkRunning = s.clkRunning := rfl
@[simp] theorem State.consider_sysrst (t : Tag) : (s.consider t).sysrst = s.sysrst := rfl
@[simp] theorem State.consider_arrival (t : Tag) : (s.consider t).arrival = s.arrival := rfl
@[simp] theorem State.consider_offer (t : Tag) : (s.consider t).offer = s.offer := rfl
@[simp] theorem State.consider_lastTag (t : Tag) : (s.consider t).lastTag = s.lastTag := rfl
@[simp] theorem State.consider_lastResponse (t : Tag) : (s.consider t).lastResponse = s.lastResponse := rfl
@[simp] theorem State.consider_records (t : Tag) :
    (s.consider t).records = s.records.set t (passRun s.gates[t].state s.records[t]).2 := rfl
@[simp] theorem State.consider_nextId (t : Tag) : (s.consider t).nextId = s.nextId := rfl
@[simp] theorem State.consider_entries (t : Tag) : (s.consider t).entries = s.entries := rfl
@[simp] theorem State.consider_slots (t : Tag) : (s.consider t).slots = s.slots := rfl
@[simp] theorem State.consider_responseLimit (t : Tag) : (s.consider t).responseLimit = s.responseLimit := rfl
@[simp] theorem State.consider_arbiter (t : Tag) : (s.consider t).arbiter = s.arbiter := rfl
@[simp] theorem State.consider_memoryRequest (t : Tag) : (s.consider t).memoryRequest = s.memoryRequest := rfl
@[simp] theorem State.consider_store (t : Tag) : (s.consider t).store = s.store := rfl
@[simp] theorem State.consider_stalls (t : Tag) : (s.consider t).stalls = s.stalls := rfl
@[simp] theorem State.consider_lost (t : Tag) : (s.consider t).lost = s.lost := rfl
@[simp] theorem State.consider_sequence (t : Tag) : (s.consider t).sequence = s.sequence := rfl
@[simp] theorem State.consider_waitsPending (t : Tag) : (s.consider t).waitsPending = s.waitsPending := rfl
@[simp] theorem State.consider_waitsComplete (t : Tag) : (s.consider t).waitsComplete = s.waitsComplete := rfl
@[simp] theorem State.consider_enableCompletions (t : Tag) : (s.consider t).enableCompletions = s.enableCompletions := rfl
@[simp] theorem State.consider_enableStored (t : Tag) : (s.consider t).enableStored = s.enableStored := rfl
@[simp] theorem State.consider_probe (t : Tag) : (s.consider t).probe = s.probe := rfl
@[simp] theorem State.consider_lcsLow (t : Tag) : (s.consider t).lcsLow = s.lcsLow := rfl
@[simp] theorem State.consider_period (t : Tag) : (s.consider t).period = s.period := rfl
@[simp] theorem State.consider_held (t : Tag) : (s.consider t).held = s.held := rfl
@[simp] theorem State.consider_requestBuffer (t : Tag) : (s.consider t).requestBuffer = s.requestBuffer := rfl
@[simp] theorem State.consider_requestCount (t : Tag) : (s.consider t).requestCount = s.requestCount := rfl
@[simp] theorem State.consider_ldo (t : Tag) : (s.consider t).ldo = s.ldo := rfl

/-! ## spendHead -/

@[simp] theorem State.spendHead_pending (t : Tag) : (s.spendHead t).pending = s.pending := rfl
@[simp] theorem State.spendHead_pins (t : Tag) : (s.spendHead t).pins = s.pins := rfl
@[simp] theorem State.spendHead_powered (t : Tag) : (s.spendHead t).powered = s.powered := rfl
@[simp] theorem State.spendHead_clkRunning (t : Tag) : (s.spendHead t).clkRunning = s.clkRunning := rfl
@[simp] theorem State.spendHead_sysrst (t : Tag) : (s.spendHead t).sysrst = s.sysrst := rfl
@[simp] theorem State.spendHead_arrival (t : Tag) : (s.spendHead t).arrival = s.arrival := rfl
@[simp] theorem State.spendHead_offer (t : Tag) : (s.spendHead t).offer = s.offer := rfl
@[simp] theorem State.spendHead_lastTag (t : Tag) : (s.spendHead t).lastTag = s.lastTag := rfl
@[simp] theorem State.spendHead_lastResponse (t : Tag) : (s.spendHead t).lastResponse = s.lastResponse := rfl
@[simp] theorem State.spendHead_nextId (t : Tag) : (s.spendHead t).nextId = s.nextId := rfl
@[simp] theorem State.spendHead_entries (t : Tag) : (s.spendHead t).entries = s.entries := rfl
@[simp] theorem State.spendHead_gates (t : Tag) : (s.spendHead t).gates = s.gates := rfl
@[simp] theorem State.spendHead_slots (t : Tag) : (s.spendHead t).slots = s.slots := rfl
@[simp] theorem State.spendHead_responseLimit (t : Tag) : (s.spendHead t).responseLimit = s.responseLimit := rfl
@[simp] theorem State.spendHead_arbiter (t : Tag) : (s.spendHead t).arbiter = s.arbiter := rfl
@[simp] theorem State.spendHead_memoryRequest (t : Tag) : (s.spendHead t).memoryRequest = s.memoryRequest := rfl
@[simp] theorem State.spendHead_store (t : Tag) : (s.spendHead t).store = s.store := rfl
@[simp] theorem State.spendHead_stalls (t : Tag) : (s.spendHead t).stalls = s.stalls := rfl
@[simp] theorem State.spendHead_lost (t : Tag) : (s.spendHead t).lost = s.lost := rfl
@[simp] theorem State.spendHead_sequence (t : Tag) : (s.spendHead t).sequence = s.sequence := rfl
@[simp] theorem State.spendHead_waitsPending (t : Tag) : (s.spendHead t).waitsPending = s.waitsPending := rfl
@[simp] theorem State.spendHead_waitsComplete (t : Tag) : (s.spendHead t).waitsComplete = s.waitsComplete := rfl
@[simp] theorem State.spendHead_enableCompletions (t : Tag) : (s.spendHead t).enableCompletions = s.enableCompletions := rfl
@[simp] theorem State.spendHead_enableStored (t : Tag) : (s.spendHead t).enableStored = s.enableStored := rfl
@[simp] theorem State.spendHead_probe (t : Tag) : (s.spendHead t).probe = s.probe := rfl
@[simp] theorem State.spendHead_lcsLow (t : Tag) : (s.spendHead t).lcsLow = s.lcsLow := rfl
@[simp] theorem State.spendHead_period (t : Tag) : (s.spendHead t).period = s.period := rfl
@[simp] theorem State.spendHead_held (t : Tag) : (s.spendHead t).held = s.held := rfl
@[simp] theorem State.spendHead_requestBuffer (t : Tag) : (s.spendHead t).requestBuffer = s.requestBuffer := rfl
@[simp] theorem State.spendHead_requestCount (t : Tag) : (s.spendHead t).requestCount = s.requestCount := rfl
@[simp] theorem State.spendHead_ldo (t : Tag) : (s.spendHead t).ldo = s.ldo := rfl

/-! ## spendHold -/

@[simp] theorem State.spendHold_pending (t : Tag) : (s.spendHold t).pending = s.pending := rfl
@[simp] theorem State.spendHold_pins (t : Tag) : (s.spendHold t).pins = s.pins := rfl
@[simp] theorem State.spendHold_powered (t : Tag) : (s.spendHold t).powered = s.powered := rfl
@[simp] theorem State.spendHold_clkRunning (t : Tag) : (s.spendHold t).clkRunning = s.clkRunning := rfl
@[simp] theorem State.spendHold_sysrst (t : Tag) : (s.spendHold t).sysrst = s.sysrst := rfl
@[simp] theorem State.spendHold_arrival (t : Tag) : (s.spendHold t).arrival = s.arrival := rfl
@[simp] theorem State.spendHold_offer (t : Tag) : (s.spendHold t).offer = s.offer := rfl
@[simp] theorem State.spendHold_lastTag (t : Tag) : (s.spendHold t).lastTag = s.lastTag := rfl
@[simp] theorem State.spendHold_lastResponse (t : Tag) : (s.spendHold t).lastResponse = s.lastResponse := rfl
@[simp] theorem State.spendHold_nextId (t : Tag) : (s.spendHold t).nextId = s.nextId := rfl
@[simp] theorem State.spendHold_entries (t : Tag) : (s.spendHold t).entries = s.entries := rfl
@[simp] theorem State.spendHold_gates (t : Tag) : (s.spendHold t).gates = s.gates := rfl
@[simp] theorem State.spendHold_slots (t : Tag) : (s.spendHold t).slots = s.slots := rfl
@[simp] theorem State.spendHold_responseLimit (t : Tag) : (s.spendHold t).responseLimit = s.responseLimit := rfl
@[simp] theorem State.spendHold_arbiter (t : Tag) : (s.spendHold t).arbiter = s.arbiter := rfl
@[simp] theorem State.spendHold_memoryRequest (t : Tag) : (s.spendHold t).memoryRequest = s.memoryRequest := rfl
@[simp] theorem State.spendHold_store (t : Tag) : (s.spendHold t).store = s.store := rfl
@[simp] theorem State.spendHold_stalls (t : Tag) : (s.spendHold t).stalls = s.stalls := rfl
@[simp] theorem State.spendHold_lost (t : Tag) : (s.spendHold t).lost = s.lost := rfl
@[simp] theorem State.spendHold_sequence (t : Tag) : (s.spendHold t).sequence = s.sequence := rfl
@[simp] theorem State.spendHold_waitsPending (t : Tag) : (s.spendHold t).waitsPending = s.waitsPending := rfl
@[simp] theorem State.spendHold_waitsComplete (t : Tag) : (s.spendHold t).waitsComplete = s.waitsComplete := rfl
@[simp] theorem State.spendHold_enableCompletions (t : Tag) : (s.spendHold t).enableCompletions = s.enableCompletions := rfl
@[simp] theorem State.spendHold_enableStored (t : Tag) : (s.spendHold t).enableStored = s.enableStored := rfl
@[simp] theorem State.spendHold_probe (t : Tag) : (s.spendHold t).probe = s.probe := rfl
@[simp] theorem State.spendHold_lcsLow (t : Tag) : (s.spendHold t).lcsLow = s.lcsLow := rfl
@[simp] theorem State.spendHold_period (t : Tag) : (s.spendHold t).period = s.period := rfl
@[simp] theorem State.spendHold_held (t : Tag) : (s.spendHold t).held = s.held := rfl
@[simp] theorem State.spendHold_requestBuffer (t : Tag) : (s.spendHold t).requestBuffer = s.requestBuffer := rfl
@[simp] theorem State.spendHold_requestCount (t : Tag) : (s.spendHold t).requestCount = s.requestCount := rfl
@[simp] theorem State.spendHold_ldo (t : Tag) : (s.spendHold t).ldo = s.ldo := rfl

/-! ## openGate -/

@[simp] theorem State.openGate_pending (t : Tag) (g : GateState) : (s.openGate t g).pending = s.pending := rfl
@[simp] theorem State.openGate_pins (t : Tag) (g : GateState) : (s.openGate t g).pins = s.pins := rfl
@[simp] theorem State.openGate_powered (t : Tag) (g : GateState) : (s.openGate t g).powered = s.powered := rfl
@[simp] theorem State.openGate_clkRunning (t : Tag) (g : GateState) : (s.openGate t g).clkRunning = s.clkRunning := rfl
@[simp] theorem State.openGate_sysrst (t : Tag) (g : GateState) : (s.openGate t g).sysrst = s.sysrst := rfl
@[simp] theorem State.openGate_arrival (t : Tag) (g : GateState) : (s.openGate t g).arrival = s.arrival := rfl
@[simp] theorem State.openGate_offer (t : Tag) (g : GateState) : (s.openGate t g).offer = s.offer := rfl
@[simp] theorem State.openGate_lastTag (t : Tag) (g : GateState) : (s.openGate t g).lastTag = s.lastTag := rfl
@[simp] theorem State.openGate_lastResponse (t : Tag) (g : GateState) : (s.openGate t g).lastResponse = s.lastResponse := rfl
@[simp] theorem State.openGate_nextId (t : Tag) (g : GateState) : (s.openGate t g).nextId = s.nextId := rfl
@[simp] theorem State.openGate_entries (t : Tag) (g : GateState) : (s.openGate t g).entries = s.entries := rfl
@[simp] theorem State.openGate_slots (t : Tag) (g : GateState) : (s.openGate t g).slots = s.slots := rfl
@[simp] theorem State.openGate_responseLimit (t : Tag) (g : GateState) : (s.openGate t g).responseLimit = s.responseLimit := rfl
@[simp] theorem State.openGate_arbiter (t : Tag) (g : GateState) : (s.openGate t g).arbiter = s.arbiter := rfl
@[simp] theorem State.openGate_memoryRequest (t : Tag) (g : GateState) : (s.openGate t g).memoryRequest = s.memoryRequest := rfl
@[simp] theorem State.openGate_store (t : Tag) (g : GateState) : (s.openGate t g).store = s.store := rfl
@[simp] theorem State.openGate_stalls (t : Tag) (g : GateState) : (s.openGate t g).stalls = s.stalls := rfl
@[simp] theorem State.openGate_lost (t : Tag) (g : GateState) : (s.openGate t g).lost = s.lost := rfl
@[simp] theorem State.openGate_sequence (t : Tag) (g : GateState) : (s.openGate t g).sequence = s.sequence := rfl
@[simp] theorem State.openGate_waitsPending (t : Tag) (g : GateState) : (s.openGate t g).waitsPending = s.waitsPending := rfl
@[simp] theorem State.openGate_waitsComplete (t : Tag) (g : GateState) : (s.openGate t g).waitsComplete = s.waitsComplete := rfl
@[simp] theorem State.openGate_enableCompletions (t : Tag) (g : GateState) : (s.openGate t g).enableCompletions = s.enableCompletions := rfl
@[simp] theorem State.openGate_enableStored (t : Tag) (g : GateState) : (s.openGate t g).enableStored = s.enableStored := rfl
@[simp] theorem State.openGate_probe (t : Tag) (g : GateState) : (s.openGate t g).probe = s.probe := rfl
@[simp] theorem State.openGate_lcsLow (t : Tag) (g : GateState) : (s.openGate t g).lcsLow = s.lcsLow := rfl
@[simp] theorem State.openGate_period (t : Tag) (g : GateState) : (s.openGate t g).period = s.period := rfl
@[simp] theorem State.openGate_held (t : Tag) (g : GateState) : (s.openGate t g).held = s.held := rfl
@[simp] theorem State.openGate_requestBuffer (t : Tag) (g : GateState) : (s.openGate t g).requestBuffer = s.requestBuffer := rfl
@[simp] theorem State.openGate_requestCount (t : Tag) (g : GateState) : (s.openGate t g).requestCount = s.requestCount := rfl
@[simp] theorem State.openGate_ldo (t : Tag) (g : GateState) : (s.openGate t g).ldo = s.ldo := rfl

/-! ## withdraw -/

@[simp] theorem State.withdraw_pending (t : Tag) (g : GateState) : (s.withdraw t g).pending = s.pending := rfl
@[simp] theorem State.withdraw_pins (t : Tag) (g : GateState) : (s.withdraw t g).pins = s.pins := rfl
@[simp] theorem State.withdraw_powered (t : Tag) (g : GateState) : (s.withdraw t g).powered = s.powered := rfl
@[simp] theorem State.withdraw_clkRunning (t : Tag) (g : GateState) : (s.withdraw t g).clkRunning = s.clkRunning := rfl
@[simp] theorem State.withdraw_sysrst (t : Tag) (g : GateState) : (s.withdraw t g).sysrst = s.sysrst := rfl
@[simp] theorem State.withdraw_arrival (t : Tag) (g : GateState) : (s.withdraw t g).arrival = s.arrival := rfl
@[simp] theorem State.withdraw_offer (t : Tag) (g : GateState) : (s.withdraw t g).offer = s.offer := rfl
@[simp] theorem State.withdraw_lastTag (t : Tag) (g : GateState) : (s.withdraw t g).lastTag = s.lastTag := rfl
@[simp] theorem State.withdraw_lastResponse (t : Tag) (g : GateState) : (s.withdraw t g).lastResponse = s.lastResponse := rfl
@[simp] theorem State.withdraw_records (t : Tag) (g : GateState) :
    (s.withdraw t g).records = s.records.set t (withdrawGated s.records[t]) := rfl
@[simp] theorem State.withdraw_nextId (t : Tag) (g : GateState) : (s.withdraw t g).nextId = s.nextId := rfl
@[simp] theorem State.withdraw_entries (t : Tag) (g : GateState) : (s.withdraw t g).entries = s.entries := rfl
@[simp] theorem State.withdraw_slots (t : Tag) (g : GateState) : (s.withdraw t g).slots = s.slots := rfl
@[simp] theorem State.withdraw_responseLimit (t : Tag) (g : GateState) : (s.withdraw t g).responseLimit = s.responseLimit := rfl
@[simp] theorem State.withdraw_arbiter (t : Tag) (g : GateState) : (s.withdraw t g).arbiter = s.arbiter := rfl
@[simp] theorem State.withdraw_memoryRequest (t : Tag) (g : GateState) : (s.withdraw t g).memoryRequest = s.memoryRequest := rfl
@[simp] theorem State.withdraw_store (t : Tag) (g : GateState) : (s.withdraw t g).store = s.store := rfl
@[simp] theorem State.withdraw_stalls (t : Tag) (g : GateState) : (s.withdraw t g).stalls = s.stalls := rfl
@[simp] theorem State.withdraw_lost (t : Tag) (g : GateState) : (s.withdraw t g).lost = s.lost := rfl
@[simp] theorem State.withdraw_sequence (t : Tag) (g : GateState) : (s.withdraw t g).sequence = s.sequence := rfl
@[simp] theorem State.withdraw_waitsPending (t : Tag) (g : GateState) : (s.withdraw t g).waitsPending = s.waitsPending := rfl
@[simp] theorem State.withdraw_waitsComplete (t : Tag) (g : GateState) : (s.withdraw t g).waitsComplete = s.waitsComplete := rfl
@[simp] theorem State.withdraw_enableCompletions (t : Tag) (g : GateState) : (s.withdraw t g).enableCompletions = s.enableCompletions := rfl
@[simp] theorem State.withdraw_enableStored (t : Tag) (g : GateState) : (s.withdraw t g).enableStored = s.enableStored := rfl
@[simp] theorem State.withdraw_probe (t : Tag) (g : GateState) : (s.withdraw t g).probe = s.probe := rfl
@[simp] theorem State.withdraw_lcsLow (t : Tag) (g : GateState) : (s.withdraw t g).lcsLow = s.lcsLow := rfl
@[simp] theorem State.withdraw_period (t : Tag) (g : GateState) : (s.withdraw t g).period = s.period := rfl
@[simp] theorem State.withdraw_held (t : Tag) (g : GateState) : (s.withdraw t g).held = s.held := rfl
@[simp] theorem State.withdraw_requestBuffer (t : Tag) (g : GateState) : (s.withdraw t g).requestBuffer = s.requestBuffer := rfl
@[simp] theorem State.withdraw_requestCount (t : Tag) (g : GateState) : (s.withdraw t g).requestCount = s.requestCount := rfl
@[simp] theorem State.withdraw_ldo (t : Tag) (g : GateState) : (s.withdraw t g).ldo = s.ldo := rfl

/-! ## answerRecord -/

@[simp] theorem State.answerRecord_pending (t : Tag) (k : SlotIndex) (c : AnswerCode) (vs : List Beat) : (s.answerRecord t k c vs).pending = s.pending := rfl
@[simp] theorem State.answerRecord_pins (t : Tag) (k : SlotIndex) (c : AnswerCode) (vs : List Beat) : (s.answerRecord t k c vs).pins = s.pins := rfl
@[simp] theorem State.answerRecord_powered (t : Tag) (k : SlotIndex) (c : AnswerCode) (vs : List Beat) : (s.answerRecord t k c vs).powered = s.powered := rfl
@[simp] theorem State.answerRecord_clkRunning (t : Tag) (k : SlotIndex) (c : AnswerCode) (vs : List Beat) : (s.answerRecord t k c vs).clkRunning = s.clkRunning := rfl
@[simp] theorem State.answerRecord_sysrst (t : Tag) (k : SlotIndex) (c : AnswerCode) (vs : List Beat) : (s.answerRecord t k c vs).sysrst = s.sysrst := rfl
@[simp] theorem State.answerRecord_arrival (t : Tag) (k : SlotIndex) (c : AnswerCode) (vs : List Beat) : (s.answerRecord t k c vs).arrival = s.arrival := rfl
@[simp] theorem State.answerRecord_offer (t : Tag) (k : SlotIndex) (c : AnswerCode) (vs : List Beat) : (s.answerRecord t k c vs).offer = s.offer := rfl
@[simp] theorem State.answerRecord_lastTag (t : Tag) (k : SlotIndex) (c : AnswerCode) (vs : List Beat) : (s.answerRecord t k c vs).lastTag = s.lastTag := rfl
@[simp] theorem State.answerRecord_lastResponse (t : Tag) (k : SlotIndex) (c : AnswerCode) (vs : List Beat) : (s.answerRecord t k c vs).lastResponse = s.lastResponse := rfl
@[simp] theorem State.answerRecord_nextId (t : Tag) (k : SlotIndex) (c : AnswerCode) (vs : List Beat) : (s.answerRecord t k c vs).nextId = s.nextId := rfl
@[simp] theorem State.answerRecord_entries (t : Tag) (k : SlotIndex) (c : AnswerCode) (vs : List Beat) : (s.answerRecord t k c vs).entries = s.entries := rfl
@[simp] theorem State.answerRecord_gates (t : Tag) (k : SlotIndex) (c : AnswerCode) (vs : List Beat) : (s.answerRecord t k c vs).gates = s.gates := rfl
@[simp] theorem State.answerRecord_slots (t : Tag) (k : SlotIndex) (c : AnswerCode) (vs : List Beat) : (s.answerRecord t k c vs).slots = s.slots := rfl
@[simp] theorem State.answerRecord_responseLimit (t : Tag) (k : SlotIndex) (c : AnswerCode) (vs : List Beat) : (s.answerRecord t k c vs).responseLimit = s.responseLimit := rfl
@[simp] theorem State.answerRecord_arbiter (t : Tag) (k : SlotIndex) (c : AnswerCode) (vs : List Beat) : (s.answerRecord t k c vs).arbiter = s.arbiter := rfl
@[simp] theorem State.answerRecord_memoryRequest (t : Tag) (k : SlotIndex) (c : AnswerCode) (vs : List Beat) : (s.answerRecord t k c vs).memoryRequest = s.memoryRequest := rfl
@[simp] theorem State.answerRecord_store (t : Tag) (k : SlotIndex) (c : AnswerCode) (vs : List Beat) : (s.answerRecord t k c vs).store = s.store := rfl
@[simp] theorem State.answerRecord_stalls (t : Tag) (k : SlotIndex) (c : AnswerCode) (vs : List Beat) : (s.answerRecord t k c vs).stalls = s.stalls := rfl
@[simp] theorem State.answerRecord_lost (t : Tag) (k : SlotIndex) (c : AnswerCode) (vs : List Beat) : (s.answerRecord t k c vs).lost = s.lost := rfl
@[simp] theorem State.answerRecord_sequence (t : Tag) (k : SlotIndex) (c : AnswerCode) (vs : List Beat) : (s.answerRecord t k c vs).sequence = s.sequence := rfl
@[simp] theorem State.answerRecord_waitsPending (t : Tag) (k : SlotIndex) (c : AnswerCode) (vs : List Beat) : (s.answerRecord t k c vs).waitsPending = s.waitsPending := rfl
@[simp] theorem State.answerRecord_waitsComplete (t : Tag) (k : SlotIndex) (c : AnswerCode) (vs : List Beat) : (s.answerRecord t k c vs).waitsComplete = s.waitsComplete := rfl
@[simp] theorem State.answerRecord_enableCompletions (t : Tag) (k : SlotIndex) (c : AnswerCode) (vs : List Beat) : (s.answerRecord t k c vs).enableCompletions = s.enableCompletions := rfl
@[simp] theorem State.answerRecord_enableStored (t : Tag) (k : SlotIndex) (c : AnswerCode) (vs : List Beat) : (s.answerRecord t k c vs).enableStored = s.enableStored := rfl
@[simp] theorem State.answerRecord_probe (t : Tag) (k : SlotIndex) (c : AnswerCode) (vs : List Beat) : (s.answerRecord t k c vs).probe = s.probe := rfl
@[simp] theorem State.answerRecord_lcsLow (t : Tag) (k : SlotIndex) (c : AnswerCode) (vs : List Beat) : (s.answerRecord t k c vs).lcsLow = s.lcsLow := rfl
@[simp] theorem State.answerRecord_period (t : Tag) (k : SlotIndex) (c : AnswerCode) (vs : List Beat) : (s.answerRecord t k c vs).period = s.period := rfl
@[simp] theorem State.answerRecord_held (t : Tag) (k : SlotIndex) (c : AnswerCode) (vs : List Beat) : (s.answerRecord t k c vs).held = s.held := rfl
@[simp] theorem State.answerRecord_requestBuffer (t : Tag) (k : SlotIndex) (c : AnswerCode) (vs : List Beat) : (s.answerRecord t k c vs).requestBuffer = s.requestBuffer := rfl
@[simp] theorem State.answerRecord_requestCount (t : Tag) (k : SlotIndex) (c : AnswerCode) (vs : List Beat) : (s.answerRecord t k c vs).requestCount = s.requestCount := rfl
@[simp] theorem State.answerRecord_ldo (t : Tag) (k : SlotIndex) (c : AnswerCode) (vs : List Beat) : (s.answerRecord t k c vs).ldo = s.ldo := rfl

/-! ## unstall -/

@[simp] theorem State.unstall_pending (k : RecordLink) : (s.unstall k).pending = s.pending := rfl
@[simp] theorem State.unstall_pins (k : RecordLink) : (s.unstall k).pins = s.pins := rfl
@[simp] theorem State.unstall_powered (k : RecordLink) : (s.unstall k).powered = s.powered := rfl
@[simp] theorem State.unstall_clkRunning (k : RecordLink) : (s.unstall k).clkRunning = s.clkRunning := rfl
@[simp] theorem State.unstall_sysrst (k : RecordLink) : (s.unstall k).sysrst = s.sysrst := rfl
@[simp] theorem State.unstall_arrival (k : RecordLink) : (s.unstall k).arrival = s.arrival := rfl
@[simp] theorem State.unstall_offer (k : RecordLink) : (s.unstall k).offer = s.offer := rfl
@[simp] theorem State.unstall_lastTag (k : RecordLink) : (s.unstall k).lastTag = s.lastTag := rfl
@[simp] theorem State.unstall_lastResponse (k : RecordLink) : (s.unstall k).lastResponse = s.lastResponse := rfl
@[simp] theorem State.unstall_nextId (k : RecordLink) : (s.unstall k).nextId = s.nextId := rfl
@[simp] theorem State.unstall_entries (k : RecordLink) : (s.unstall k).entries = s.entries := rfl
@[simp] theorem State.unstall_slots (k : RecordLink) : (s.unstall k).slots = s.slots := rfl
@[simp] theorem State.unstall_responseLimit (k : RecordLink) : (s.unstall k).responseLimit = s.responseLimit := rfl
@[simp] theorem State.unstall_arbiter (k : RecordLink) : (s.unstall k).arbiter = s.arbiter := rfl
@[simp] theorem State.unstall_memoryRequest (k : RecordLink) : (s.unstall k).memoryRequest = s.memoryRequest := rfl
@[simp] theorem State.unstall_store (k : RecordLink) : (s.unstall k).store = s.store := rfl
@[simp] theorem State.unstall_stalls (k : RecordLink) : (s.unstall k).stalls = s.stalls := rfl
@[simp] theorem State.unstall_lost (k : RecordLink) : (s.unstall k).lost = s.lost := rfl
@[simp] theorem State.unstall_sequence (k : RecordLink) : (s.unstall k).sequence = s.sequence := rfl
@[simp] theorem State.unstall_waitsPending (k : RecordLink) : (s.unstall k).waitsPending = s.waitsPending := rfl
@[simp] theorem State.unstall_waitsComplete (k : RecordLink) : (s.unstall k).waitsComplete = s.waitsComplete := rfl
@[simp] theorem State.unstall_enableCompletions (k : RecordLink) : (s.unstall k).enableCompletions = s.enableCompletions := rfl
@[simp] theorem State.unstall_enableStored (k : RecordLink) : (s.unstall k).enableStored = s.enableStored := rfl
@[simp] theorem State.unstall_probe (k : RecordLink) : (s.unstall k).probe = s.probe := rfl
@[simp] theorem State.unstall_lcsLow (k : RecordLink) : (s.unstall k).lcsLow = s.lcsLow := rfl
@[simp] theorem State.unstall_period (k : RecordLink) : (s.unstall k).period = s.period := rfl
@[simp] theorem State.unstall_held (k : RecordLink) : (s.unstall k).held = s.held := rfl
@[simp] theorem State.unstall_requestBuffer (k : RecordLink) : (s.unstall k).requestBuffer = s.requestBuffer := rfl
@[simp] theorem State.unstall_requestCount (k : RecordLink) : (s.unstall k).requestCount = s.requestCount := rfl
@[simp] theorem State.unstall_ldo (k : RecordLink) : (s.unstall k).ldo = s.ldo := rfl

/-! ## Reads of one place -/

theorem State.setRecords_get (t u : Tag) (l : List TransitRecord) :
    (s.setRecords t l).records[u] = if t = u then l else s.records[u] := by
  simp [State.setRecords, Vector.getElem_set, Fin.val_inj]

theorem State.setGate_get (t u : Tag) (g : Gate) :
    (s.setGate t g).gates[u] = if t = u then g else s.gates[u] := by
  simp [State.setGate, Vector.getElem_set, Fin.val_inj]

theorem State.setEntry_get (i j : WatchIndex) (e : WatchEntry) :
    (s.setEntry i e).entries[j] = if i = j then e else s.entries[j] := by
  simp [State.setEntry, Vector.getElem_set, Fin.val_inj]

theorem State.setSlot_get (k j : SlotIndex) (v : Slot) :
    (s.setSlot k v).slots[j] = if k = j then v else s.slots[j] := by
  simp [State.setSlot, Vector.getElem_set, Fin.val_inj]

/-- Reading a place of a vector after one place was written. -/
@[simp] theorem vector_set_get {α : Type} {n : Nat} (v : Vector α n) (i j : Fin n) (x : α) :
    (v.set (↑i) x i.isLt)[(↑j : Nat)]'j.isLt = if i = j then x else v[j] := by
  simp [Vector.getElem_set, Fin.val_inj]

end Sys2Proof.Machine
end

