-- ==== Sys2Proof/Laws/Lists.lean ====
section
/-! SUPPORT. What the list operations and the small operations on records and data values do. -/

namespace Sys2Proof.Machine

variable {α : Type}

/-! ## takeFirst and onFirst -/

/-- Nothing is taken exactly when no element passes the test. -/
theorem takeFirst_eq_none {p : α → Bool} {l : List α} :
    takeFirst p l = none ↔ ∀ x ∈ l, p x = false := by
  induction l with
  | nil => simp [takeFirst]
  | cons x xs ih =>
    simp only [takeFirst]
    split
    · simp_all
    · cases h : takeFirst p xs with
      | none => simp_all
      | some y => simpa [h, *] using ih

/-- What is taken is the first element that passes, and the rest keep their order. -/
theorem takeFirst_eq_some {p : α → Bool} {l rest : List α} {x : α} (h : takeFirst p l = some (x, rest)) :
    ∃ pre post, l = pre ++ x :: post ∧ rest = pre ++ post ∧ (∀ y ∈ pre, p y = false) ∧ p x = true := by
  induction l generalizing rest with
  | nil => simp [takeFirst] at h
  | cons y ys ih =>
    simp only [takeFirst] at h
    split at h
    · next hp =>
      cases h
      exact ⟨[], ys, rfl, rfl, by simp, hp⟩
    · next hp =>
      split at h
      · next z zs hz =>
        cases h
        obtain ⟨pre, post, h1, h2, h3, h4⟩ := ih hz
        exact ⟨y :: pre, post, by simp [h1], by simp [h2], by simpa [hp] using h3, h4⟩
      · cases h

/-- The first element that passes is taken from where it stands. -/
theorem takeFirst_append {p : α → Bool} {pre post : List α} {x : α} (hpre : ∀ y ∈ pre, p y = false)
    (hx : p x = true) : takeFirst p (pre ++ x :: post) = some (x, pre ++ post) := by
  induction pre with
  | nil => simp [takeFirst, hx]
  | cons y ys ih => simp_all [takeFirst]

/-- Changing the first element that passes leaves the others. -/
theorem onFirst_append {p : α → Bool} {f : α → α} {pre post : List α} {x : α}
    (hpre : ∀ y ∈ pre, p y = false) (hx : p x = true) :
    onFirst p f (pre ++ x :: post) = pre ++ f x :: post := by
  induction pre with
  | nil => simp [onFirst, hx]
  | cons y ys ih => simp_all [onFirst]

/-- With no element that passes nothing changes. -/
theorem onFirst_of_none {p : α → Bool} {f : α → α} {l : List α} (h : ∀ y ∈ l, p y = false) :
    onFirst p f l = l := by
  induction l with
  | nil => rfl
  | cons y ys ih => simp_all [onFirst]

/-- A list with an element that passes splits at the first such element. -/
theorem exists_first {p : α → Bool} {l : List α} (h : l.any p = true) :
    ∃ pre x post, l = pre ++ x :: post ∧ (∀ y ∈ pre, p y = false) ∧ p x = true := by
  induction l with
  | nil => simp at h
  | cons y ys ih =>
    by_cases hy : p y
    · exact ⟨[], y, ys, rfl, by simp, hy⟩
    · obtain ⟨pre, x, post, h1, h2, h3⟩ := ih (by simpa [hy] using h)
      exact ⟨y :: pre, x, post, by simp [h1], by simpa [hy] using h2, h3⟩

/-- The first element found behind elements that fail the test. -/
theorem find_append {p : α → Bool} {pre post : List α} {x : α} (hpre : ∀ y ∈ pre, p y = false)
    (hx : p x = true) : (pre ++ x :: post).find? p = some x := by
  induction pre with
  | nil => simp [hx]
  | cons y ys ih => simp_all

/-! ## Phases -/

@[simp] theorem TransitRecord.isGated_iff {r : TransitRecord} : r.isGated = true ↔ r.phase = .gated := by
  unfold TransitRecord.isGated; split <;> simp_all

@[simp] theorem TransitRecord.isReady_iff {r : TransitRecord} : r.isReady = true ↔ r.phase = .ready := by
  unfold TransitRecord.isReady; split <;> simp_all

@[simp] theorem TransitRecord.isAtMemory_iff {r : TransitRecord} :
    r.isAtMemory = true ↔ ∃ k, r.phase = .atMemory k := by
  unfold TransitRecord.isAtMemory; split <;> simp_all

@[simp] theorem TransitRecord.inSlot_iff {r : TransitRecord} {k : SlotIndex} :
    r.inSlot k = true ↔ r.phase = .atMemory k := by
  unfold TransitRecord.inSlot; split <;> simp_all

@[simp] theorem TransitRecord.isAnswered_iff {r : TransitRecord} :
    r.isAnswered = true ↔ ∃ a, r.phase = .answered a := by
  unfold TransitRecord.isAnswered; split <;> simp_all

@[simp] theorem GateState.isClosed_iff {g : GateState} : g.isClosed = true ↔ ∃ c, g = .closed c := by
  cases g <;> simp [GateState.isClosed]

@[simp] theorem TransitRecord.isGated_eq_false {r : TransitRecord} : r.isGated = false ↔ r.phase ≠ .gated := by
  rw [← Bool.not_eq_true, TransitRecord.isGated_iff]

@[simp] theorem TransitRecord.isReady_eq_false {r : TransitRecord} : r.isReady = false ↔ r.phase ≠ .ready := by
  rw [← Bool.not_eq_true, TransitRecord.isReady_iff]

@[simp] theorem TransitRecord.inSlot_eq_false {r : TransitRecord} {k : SlotIndex} :
    r.inSlot k = false ↔ r.phase ≠ .atMemory k := by
  rw [← Bool.not_eq_true, TransitRecord.inSlot_iff]

@[simp] theorem GateState.isClosed_opened : GateState.isClosed .opened = false := rfl
@[simp] theorem GateState.isClosed_stepping (n : BitVec 16) : GateState.isClosed (.stepping n) = false := rfl
@[simp] theorem GateState.isClosed_closed (c : CloseCause) : GateState.isClosed (.closed c) = true := rfl

@[simp] theorem hasGated_nil : hasGated [] = false := rfl

@[simp] theorem hasGated_cons {r : TransitRecord} {l : List TransitRecord} :
    hasGated (r :: l) = (r.isGated || hasGated l) := by simp [hasGated]

@[simp] theorem hasGated_append {l m : List TransitRecord} :
    hasGated (l ++ m) = (hasGated l || hasGated m) := by simp [hasGated]

theorem hasGated_eq_false {l : List TransitRecord} : hasGated l = false ↔ ∀ r ∈ l, r.isGated = false := by
  simp [hasGated]

/-- The head of a tag and the records around it. -/
theorem headOf_append {pre post : List TransitRecord} {h : TransitRecord} (hpre : hasGated pre = false)
    (hh : h.isGated = true) : headOf (pre ++ h :: post) = some h :=
  find_append (hasGated_eq_false.1 hpre) hh

theorem headOf_eq_none {l : List TransitRecord} : headOf l = none ↔ hasGated l = false := by
  simp [headOf, hasGated]

/-- A tag with a GATED record splits at its head. -/
theorem exists_head {l : List TransitRecord} (h : hasGated l = true) :
    ∃ pre r post, l = pre ++ r :: post ∧ hasGated pre = false ∧ r.isGated = true := by
  obtain ⟨pre, r, post, h1, h2, h3⟩ := exists_first h
  exact ⟨pre, r, post, h1, hasGated_eq_false.2 h2, h3⟩

theorem onHead_append {f : TransitRecord → TransitRecord} {pre post : List TransitRecord}
    {h : TransitRecord} (hpre : hasGated pre = false) (hh : h.isGated = true) :
    onHead f (pre ++ h :: post) = pre ++ f h :: post :=
  onFirst_append (hasGated_eq_false.1 hpre) hh

theorem onHead_of_none {f : TransitRecord → TransitRecord} {l : List TransitRecord}
    (h : hasGated l = false) : onHead f l = l :=
  onFirst_of_none (hasGated_eq_false.1 h)

/-! ## Data values -/

@[simp] theorem supplied_length (n : Nat) (l : List Beat) : (supplied n l).length = n := by
  induction n generalizing l with
  | zero => rfl
  | succ n ih => cases l <;> simp [supplied, ih]

/-- Value `k` of `n` supplied values: the one supplied for it, or zero. -/
theorem supplied_get (n : Nat) (l : List Beat) (k : Nat) (h : k < n) :
    (supplied n l)[k]? = some (l.getD k 0) := by
  induction n generalizing l k with
  | zero => omega
  | succ n ih =>
    cases l with
    | nil =>
      cases k with
      | zero => simp [supplied]
      | succ k => simpa [supplied] using ih [] k (by omega)
    | cons v vs =>
      cases k with
      | zero => simp [supplied]
      | succ k => simpa [supplied] using ih vs k (by omega)

@[simp] theorem supplied_nil (n : Nat) : supplied n [] = List.replicate n 0 := by
  induction n with
  | zero => rfl
  | succ n ih => simp [supplied, ih, List.replicate_succ]

/-- With nothing supplied a READ's answer is zero in every beat, and a WRITE's is empty. -/
theorem answerData_nil (access : Access) (n : Nat) :
    answerData access n [] = if access = .read then List.replicate n 0 else [] := by
  cases access <;> simp [answerData]

@[simp] theorem answerData_length (access : Access) (n : Nat) (l : List Beat) :
    (answerData access n l).length = if access = .read then n else 0 := by
  cases access <;> simp [answerData]

@[simp] theorem answerData_write (n : Nat) (l : List Beat) : answerData .write n l = [] := rfl

theorem answerData_read (n : Nat) (l : List Beat) : answerData .read n l = supplied n l := rfl

end Sys2Proof.Machine
end

