-- ==== Sys2Proof/Laws/Gates.lean ====
section
/-! SUPPORT. What the operations of the gate unit do: the hold timer, passage at the head, release and
withdrawal. -/

namespace Sys2Proof.Machine

/-! ## The hold timer -/

@[simp] theorem Gate.settleTimer_state (g : Gate) (b : Bool) : (g.settleTimer b).state = g.state := by
  unfold Gate.settleTimer; split
  · split <;> rfl
  · rfl

@[simp] theorem Gate.settleTimer_limit (g : Gate) (b : Bool) : (g.settleTimer b).limit = g.limit := by
  unfold Gate.settleTimer; split
  · split <;> rfl
  · rfl

@[simp] theorem Gate.settleTimer_policy (g : Gate) (b : Bool) : (g.settleTimer b).policy = g.policy := by
  unfold Gate.settleTimer; split
  · split <;> rfl
  · rfl

/-- The hold timer after it has followed its gate: it runs on or starts from the limit while its condition
holds, and is stopped otherwise (R70). -/
theorem Gate.settleTimer_timer (g : Gate) (b : Bool) : (g.settleTimer b).timer =
    if g.state.isClosed ∧ b ∧ g.limit ≠ 0 then some (g.timer.getD (g.limit.toNat * 100)) else none := by
  unfold Gate.settleTimer
  by_cases h : g.state.isClosed = true ∧ b = true ∧ g.limit ≠ 0
  · rw [if_pos h, if_pos (by simpa [and_assoc] using h)]
    split <;> simp_all
  · rw [if_neg h, if_neg (by simpa [and_assoc] using h)]

theorem Gate.settleTimer_isSome (g : Gate) (b : Bool) :
    (g.settleTimer b).timer.isSome = (g.state.isClosed && b && g.limit != 0) := by
  rw [g.settleTimer_timer]
  by_cases h : g.state.isClosed = true ∧ b = true ∧ g.limit ≠ 0
  · rw [if_pos h]; simp_all
  · rw [if_neg h]; revert h; cases g.state.isClosed <;> cases b <;> simp

/-- A gate is its state, limit, policy and timer. -/
theorem Gate.settleTimer_eq (g : Gate) (b : Bool) : g.settleTimer b = { g with
    timer := if g.state.isClosed ∧ b ∧ g.limit ≠ 0 then some (g.timer.getD (g.limit.toNat * 100)) else none } := by
  rw [← g.settleTimer_timer]
  cases h : g.settleTimer b
  have h1 := g.settleTimer_state b
  have h2 := g.settleTimer_limit b
  have h3 := g.settleTimer_policy b
  simp_all

/-! ## Passage -/

/-- A tag without GATED records has nothing to pass. -/
theorem passRun_of_none (g : GateState) {l : List TransitRecord} (h : hasGated l = false) :
    passRun g l = (g, l) := by
  induction l with
  | nil => rfl
  | cons r rs ih => simp_all [passRun]

/-- Records that are not GATED are stepped over. -/
theorem passRun_append (g : GateState) {pre rest : List TransitRecord} (h : hasGated pre = false) :
    passRun g (pre ++ rest) = ((passRun g rest).1, pre ++ (passRun g rest).2) := by
  induction pre with
  | nil => rfl
  | cons r rs ih => simp_all [passRun]

/-- A closed gate passes nothing. -/
theorem passRun_closed (c : CloseCause) (l : List TransitRecord) : passRun (.closed c) l = (.closed c, l) := by
  induction l with
  | nil => rfl
  | cons r rs ih => simp [passRun, ih]

/-- A stalled head waits (R53 case 1). -/
theorem passRun_stalled (g : GateState) {h : TransitRecord} {rest : List TransitRecord}
    (hg : h.isGated = true) (hs : h.stalled = true) : passRun g (h :: rest) = (g, h :: rest) := by
  simp [passRun, hg, hs]

/-- An unspent HOLD-BEFORE closes the gate (R53 case 2). -/
theorem passRun_holds {g : GateState} {h : TransitRecord} {rest : List TransitRecord}
    (hg : h.isGated = true) (hs : h.stalled = false) (hc : g.isClosed = false) (hh : h.holdsBefore = true) :
    passRun g (h :: rest) = (.closed .watchBefore, h :: rest) := by
  simp [passRun, hg, hs, hc, hh]

/-- Any other head passes an open or stepping gate, and the next one is considered (R53 case 3). -/
theorem passRun_passes {g : GateState} {h : TransitRecord} {rest : List TransitRecord}
    (hg : h.isGated = true) (hs : h.stalled = false) (hc : g.isClosed = false) (hh : h.holdsBefore = false) :
    passRun g (h :: rest) =
      ((passRun (g.afterPassage h) rest).1, { h with phase := .ready } :: (passRun (g.afterPassage h) rest).2) := by
  simp [passRun, hg, hs, hc, hh]

/-- What a run of passages can do to a list: records keep their places, and each is unchanged or, having been
GATED, unstalled and without an unspent hold, has become READY. -/
theorem passRun_records (g : GateState) (l : List TransitRecord) :
    List.Forall₂ (fun r r' => r' = r ∨ r.isGated = true ∧ r.stalled = false ∧ r.holdsBefore = false
      ∧ r' = { r with phase := .ready }) l (passRun g l).2 := by
  induction l generalizing g with
  | nil => exact .nil
  | cons r rs ih =>
    have same : ∀ m : List TransitRecord, List.Forall₂ (fun r r' : TransitRecord => r' = r
        ∨ r.isGated = true ∧ r.stalled = false ∧ r.holdsBefore = false ∧ r' = { r with phase := .ready }) m m := by
      intro m; induction m with
      | nil => exact .nil
      | cons x xs ihx => exact .cons (.inl rfl) ihx
    simp only [passRun]
    split
    · next hg =>
      split
      · exact same _
      · next hs =>
        split
        · exact same _
        · next hh => exact .cons (.inr ⟨hg, by simp_all, by simp_all, rfl⟩) (ih _)
    · exact .cons (.inl rfl) (ih _)

@[simp] theorem passRun_length (g : GateState) (l : List TransitRecord) : (passRun g l).2.length = l.length :=
  (passRun_records g l).length_eq.symm

/-- The marks of the records do not change. -/
theorem passRun_ids (g : GateState) (l : List TransitRecord) : (passRun g l).2.map (·.id) = l.map (·.id) := by
  have h := passRun_records g l
  revert h
  generalize (passRun g l).2 = m
  intro h
  induction h with
  | nil => rfl
  | cons h _ ih => rcases h with rfl | ⟨_, _, _, rfl⟩ <;> simp [ih]

/-- A record of the run is a record of the list, unchanged or passed. -/
theorem mem_passRun {g : GateState} {l : List TransitRecord} {r' : TransitRecord} (h : r' ∈ (passRun g l).2) :
    ∃ r ∈ l, r' = r ∨ r.isGated = true ∧ r.stalled = false ∧ r.holdsBefore = false
      ∧ r' = { r with phase := .ready } := by
  have hf := passRun_records g l
  revert h hf
  generalize (passRun g l).2 = m
  intro h hf
  induction hf with
  | nil => simp at h
  | @cons a b _ _ hab _ ih =>
    rcases List.mem_cons.1 h with rfl | h
    · exact ⟨a, by simp, hab⟩
    · obtain ⟨r, hr, hrr⟩ := ih h
      exact ⟨r, by simp [hr], hrr⟩

/-- The law after every consideration (R53): at an OPEN or STEPPING gate the oldest GATED record is
stalled. -/
theorem passRun_law (g : GateState) (l : List TransitRecord) :
    (passRun g l).1.isClosed = true ∨ (headOf (passRun g l).2).all (·.stalled) = true := by
  induction l generalizing g with
  | nil => simp [passRun, headOf]
  | cons r rs ih =>
    simp only [passRun]
    split
    · next hg =>
      split
      · next h =>
        rcases Bool.or_eq_true _ _ ▸ h with h | h
        · right; simp [headOf, hg, h]
        · left; exact h
      · split
        · left; rfl
        · rcases ih (g.afterPassage r) with h | h
          · left; exact h
          · right; simpa [headOf, TransitRecord.isGated] using h
    · next hg =>
      rcases ih g with h | h
      · left; exact h
      · right; simpa [headOf, hg] using h

/-- A gate that steps keeps steps above 0 through passages (03, 3.1). -/
theorem GateState.afterPassage_steps {g : GateState} {r : TransitRecord} (h : g ≠ .stepping 0) :
    g.afterPassage r ≠ .stepping 0 := by
  unfold GateState.afterPassage
  split
  · simp
  · split
    · next n =>
      split
      · simp
      · next hn =>
        intro hc
        have : n - 1 = 0 := by simpa using hc
        have : n = 1 := by have := congrArg (· + 1) this; simpa using this
        simp [this] at hn
    · simpa using h

theorem passRun_steps (g : GateState) (l : List TransitRecord) (h : g ≠ .stepping 0) :
    (passRun g l).1 ≠ .stepping 0 := by
  induction l generalizing g with
  | nil => simpa [passRun] using h
  | cons r rs ih =>
    simp only [passRun]
    split
    · split
      · exact h
      · split
        · simp
        · exact ih _ (GateState.afterPassage_steps h)
    · exact ih _ h

/-! ## Consideration -/

/-- A tag's records after its head was considered. -/
theorem State.consider_records_get (s : State) (tag u : Tag) : (s.consider tag).records[u] =
    if tag = u then (passRun s.gates[tag].state s.records[tag]).2 else s.records[u] := by
  simp [State.consider, State.settleTimer]

/-- A tag's gate after its head was considered. -/
theorem State.consider_gates_get (s : State) (tag u : Tag) : (s.consider tag).gates[u] =
    if tag = u then
      ({ s.gates[tag] with state := (passRun s.gates[tag].state s.records[tag]).1 } : Gate).settleTimer
        (hasGated (passRun s.gates[tag].state s.records[tag]).2)
    else s.gates[u] := by
  by_cases h : tag = u
  · subst h; simp [State.consider, State.settleTimer]
  · simp [State.consider, State.settleTimer, h]

/-- A consideration changes nothing but gates and records. -/
theorem State.consider_frame (s : State) (tag : Tag) :
    s.consider tag = { s with gates := (s.consider tag).gates, records := (s.consider tag).records } := rfl

/-- A gate's timer follows its gate and the GATED records behind it, and nothing else changes. -/
theorem State.settleTimer_gates_get (s : State) (tag u : Tag) : (s.settleTimer tag).gates[u] =
    if tag = u then s.gates[tag].settleTimer (hasGated s.records[tag]) else s.gates[u] := by
  simp [State.settleTimer]

/-! ## Withdrawal -/

@[simp] theorem withdrawGated_hasGated (l : List TransitRecord) : hasGated (withdrawGated l) = false := by
  rw [hasGated_eq_false]
  intro r hr
  obtain ⟨x, _, rfl⟩ := List.mem_map.1 hr
  split
  · rfl
  · simp_all

/-- Withdrawal record by record: a GATED one is answered WITHDRAWN with zero data, the others stay (R64). -/
theorem withdrawGated_eq (l : List TransitRecord) : withdrawGated l = l.map fun r : TransitRecord =>
    if r.phase = .gated then
      { r with phase := .answered ⟨.withdrawn, if r.access = .read then List.replicate r.beats.toNat 0 else []⟩ }
    else r := by
  apply List.map_congr_left
  intro r _
  simp only [TransitRecord.answeredWith, answerData_nil, TransitRecord.isGated_iff]

end Sys2Proof.Machine
end

