-- ==== Sys2Proof/Laws/Events.lean ====
section
/-! SUPPORT. What placement, unstalling, the refill, the probe's completion, the offer of a response and the
link's response do. -/

namespace Sys2Proof.Machine

/-! ## Placement -/

/-- The first PENDING wait that matches takes the event (R105 step 1). -/
theorem State.place_wait {s : State} {e : Event} {l : Option RecordLink} {w : PendingWait}
    {rest : List PendingWait}
    (h : takeFirst (fun w : PendingWait => w.selector.accepts e) s.waitsPending = some (w, rest)) :
    s.place e l = { s with
      waitsPending := rest
      waitsComplete := s.waitsComplete ++ [⟨w.handle, w.selector, ⟨s.sequence, s.lost, e⟩⟩]
      sequence := s.sequence + 1
      lost := 0 } := by
  simp only [State.place, h]; rfl

/-- With no matching wait, a store with room takes the event (R105 step 2). -/
theorem State.place_store {s : State} {e : Event} {l : Option RecordLink}
    (h : ∀ w ∈ s.waitsPending, w.selector.accepts e = false) (hs : s.store.length < 32) :
    s.place e l = { s with
      store := s.store ++ [⟨s.sequence, s.lost, e⟩], sequence := s.sequence + 1, lost := 0 } := by
  have h' := takeFirst_eq_none (p := fun w : PendingWait => w.selector.accepts e).2 h
  simp only [State.place, h', Config.storeCapacity, if_pos hs]; rfl

/-- With no matching wait and a full store, a lossless event is stalled with its record (R105 step 3). -/
theorem State.place_stall {s : State} {e : Event} {l : RecordLink}
    (h : ∀ w ∈ s.waitsPending, w.selector.accepts e = false) (hs : 32 ≤ s.store.length) :
    s.place e (some l) = ({ s with stalls := s.stalls ++ [⟨e, l⟩] } : State).markStall l true := by
  have h' := takeFirst_eq_none (p := fun w : PendingWait => w.selector.accepts e).2 h
  simp only [State.place, h', Config.storeCapacity, if_neg (Nat.not_lt.2 hs)]

/-- With no matching wait and a full store, any other event is dropped and counted (R105 step 4). -/
theorem State.place_drop {s : State} {e : Event}
    (h : ∀ w ∈ s.waitsPending, w.selector.accepts e = false) (hs : 32 ≤ s.store.length) :
    s.place e none = { s with lost := lostPlus s.lost 1 } := by
  have h' := takeFirst_eq_none (p := fun w : PendingWait => w.selector.accepts e).2 h
  simp only [State.place, h', Config.storeCapacity, if_neg (Nat.not_lt.2 hs)]

/-- Everything a placement can do. -/
theorem State.place_cases (s : State) (e : Event) (l : Option RecordLink) :
    (∃ pre w post, s.waitsPending = pre ++ w :: post ∧ (∀ v ∈ pre, v.selector.accepts e = false)
        ∧ w.selector.accepts e = true
        ∧ s.place e l = { s with
            waitsPending := pre ++ post
            waitsComplete := s.waitsComplete ++ [⟨w.handle, w.selector, ⟨s.sequence, s.lost, e⟩⟩]
            sequence := s.sequence + 1
            lost := 0 })
    ∨ (∀ w ∈ s.waitsPending, w.selector.accepts e = false) ∧
      (s.store.length < 32 ∧ s.place e l = { s with
          store := s.store ++ [⟨s.sequence, s.lost, e⟩], sequence := s.sequence + 1, lost := 0 }
        ∨ 32 ≤ s.store.length ∧
          ((∃ k, l = some k ∧ s.place e l = ({ s with stalls := s.stalls ++ [⟨e, k⟩] } : State).markStall k true)
            ∨ l = none ∧ s.place e l = { s with lost := lostPlus s.lost 1 })) := by
  cases h : takeFirst (fun w : PendingWait => w.selector.accepts e) s.waitsPending with
  | some p =>
    obtain ⟨w, rest⟩ := p
    obtain ⟨pre, post, h1, rfl, h3, h4⟩ := takeFirst_eq_some h
    exact .inl ⟨pre, w, post, h1, h3, h4, State.place_wait h⟩
  | none =>
    have hw := takeFirst_eq_none.1 h
    refine .inr ⟨hw, ?_⟩
    by_cases hs : s.store.length < 32
    · exact .inl ⟨hs, State.place_store hw hs⟩
    · refine .inr ⟨Nat.not_lt.1 hs, ?_⟩
      cases l with
      | none => exact .inr ⟨rfl, State.place_drop hw (Nat.not_lt.1 hs)⟩
      | some k => exact .inl ⟨k, rfl, State.place_stall hw (Nat.not_lt.1 hs)⟩

/-- A placement writes the event unit, the wait table and, for a stall, stall marks, and nothing else. -/
theorem State.place_frame (s : State) (e : Event) (l : Option RecordLink) :
    s.place e l = { s with
      store := (s.place e l).store, stalls := (s.place e l).stalls, lost := (s.place e l).lost,
      sequence := (s.place e l).sequence, waitsPending := (s.place e l).waitsPending,
      waitsComplete := (s.place e l).waitsComplete, records := (s.place e l).records } := by
  rcases s.place_cases e l with ⟨_, _, _, _, _, _, h⟩ | ⟨_, ⟨_, h⟩ | ⟨_, ⟨_, _, h⟩ | ⟨_, h⟩⟩⟩
  · rw [h]
  · rw [h]
  · rw [h]; rfl
  · rw [h]

/-- A lossy event changes no record and stalls nothing (R105). -/
theorem State.place_lossy (s : State) (e : Event) :
    (s.place e none).records = s.records ∧ (s.place e none).stalls = s.stalls := by
  rcases s.place_cases e none with ⟨_, _, _, _, _, _, h⟩ | ⟨_, ⟨_, h⟩ | ⟨_, ⟨_, h, _⟩ | ⟨_, h⟩⟩⟩
  · rw [h]; exact ⟨rfl, rfl⟩
  · rw [h]; exact ⟨rfl, rfl⟩
  · cases h
  · rw [h]; exact ⟨rfl, rfl⟩

section PlaceFields

variable (s : State) (e : Event) (l : Option RecordLink)

@[simp] theorem State.place_pending : (s.place e l).pending = s.pending := by rw [State.place_frame]
@[simp] theorem State.place_powered : (s.place e l).powered = s.powered := by rw [State.place_frame]
@[simp] theorem State.place_sysrst : (s.place e l).sysrst = s.sysrst := by rw [State.place_frame]
@[simp] theorem State.place_arrival : (s.place e l).arrival = s.arrival := by rw [State.place_frame]
@[simp] theorem State.place_offer : (s.place e l).offer = s.offer := by rw [State.place_frame]
@[simp] theorem State.place_lastTag : (s.place e l).lastTag = s.lastTag := by rw [State.place_frame]
@[simp] theorem State.place_lastResponse : (s.place e l).lastResponse = s.lastResponse := by
  rw [State.place_frame]
@[simp] theorem State.place_nextId : (s.place e l).nextId = s.nextId := by rw [State.place_frame]
@[simp] theorem State.place_entries : (s.place e l).entries = s.entries := by rw [State.place_frame]
@[simp] theorem State.place_gates : (s.place e l).gates = s.gates := by rw [State.place_frame]
@[simp] theorem State.place_slots : (s.place e l).slots = s.slots := by rw [State.place_frame]
@[simp] theorem State.place_responseLimit : (s.place e l).responseLimit = s.responseLimit := by
  rw [State.place_frame]
@[simp] theorem State.place_arbiter : (s.place e l).arbiter = s.arbiter := by rw [State.place_frame]
@[simp] theorem State.place_memoryRequest : (s.place e l).memoryRequest = s.memoryRequest := by
  rw [State.place_frame]
@[simp] theorem State.place_enableCompletions : (s.place e l).enableCompletions = s.enableCompletions := by
  rw [State.place_frame]
@[simp] theorem State.place_enableStored : (s.place e l).enableStored = s.enableStored := by
  rw [State.place_frame]
@[simp] theorem State.place_probe : (s.place e l).probe = s.probe := by rw [State.place_frame]
@[simp] theorem State.place_held : (s.place e l).held = s.held := by rw [State.place_frame]

end PlaceFields

/-- A tag's records after a placement: as they were, or with the linked record marked stalled. -/
theorem State.place_records_get (s : State) (e : Event) (l : Option RecordLink) (u : Tag) :
    (s.place e l).records[u] = s.records[u]
    ∨ ∃ k, l = some k ∧ k.tag = u ∧ (s.place e l).records[u] = s.records[u].map fun r : TransitRecord =>
        if r.id = k.id then { r with stalled := true } else r := by
  rcases s.place_cases e l with ⟨_, _, _, _, _, _, h⟩ | ⟨_, ⟨_, h⟩ | ⟨_, ⟨k, hk, h⟩ | ⟨_, h⟩⟩⟩
  · rw [h]; exact .inl rfl
  · rw [h]; exact .inl rfl
  · by_cases hu : k.tag = u
    · refine .inr ⟨k, hk, hu, ?_⟩
      rw [h]; simp [State.markStall, hu]
    · rw [h]; simp [State.markStall, hu]
  · rw [h]; exact .inl rfl

/-! ## Stall marks and the refill -/

/-- A tag's records after a stall mark was set or cleared. -/
theorem State.markStall_records_get (s : State) (l : RecordLink) (b : Bool) (u : Tag) :
    (s.markStall l b).records[u] =
      if l.tag = u then s.records[u].map fun r : TransitRecord => if r.id = l.id then { r with stalled := b } else r
      else s.records[u] := by
  by_cases h : l.tag = u <;> simp [State.markStall, h]

/-- One move of the refill: the oldest stalled event to the young end of the store (R115). -/
def State.moveStalled (s : State) (e : Stalled) (rest : List Stalled) : State :=
  ({ s with stalls := rest }.deliverToStore e.event).unstall e.link

/-- A refill keeps what every single move keeps. -/
theorem State.refill_induction {P : State → Prop}
    (move : ∀ s e rest, P s → s.stalls = e :: rest → s.store.length < 32 → P (s.moveStalled e rest))
    {s : State} (h : P s) : P s.refill := by
  suffices ∀ n s, P s → P (refillFuel n s) from this _ _ h
  intro n
  induction n with
  | zero => exact fun s h => h
  | succ n ih =>
    intro s h
    simp only [refillFuel]
    split
    · exact h
    · next e rest he =>
      split
      · next hs => exact ih _ (move s e rest h he hs)
      · exact h

/-- A refill ends with an empty stall list or a full store (R115). -/
theorem State.refill_done (s : State) : s.refill.stalls = [] ∨ 32 ≤ s.refill.store.length := by
  suffices ∀ n s, s.stalls.length ≤ n → (refillFuel n s).stalls = [] ∨ 32 ≤ (refillFuel n s).store.length from
    this _ s (Nat.le_refl _)
  intro n
  induction n with
  | zero => intro s h; left; exact List.length_eq_zero_iff.1 (Nat.le_zero.1 h)
  | succ n ih =>
    intro s h
    simp only [refillFuel]
    split
    · next he => left; exact he
    · next e rest he =>
      split
      · exact ih _ (by simp [he] at h; simpa using h)
      · next hs => right; exact Nat.not_lt.1 hs

/-- A refill with nothing stalled changes nothing. -/
theorem State.refill_of_nil {s : State} (h : s.stalls = []) : s.refill = s := by
  simp [State.refill, h, refillFuel]

/-- A refill writes the event unit, stall marks, and the gates and records that proceed. -/
theorem State.refill_frame (s : State) : s.refill = { s with
    store := s.refill.store, stalls := s.refill.stalls, sequence := s.refill.sequence, lost := s.refill.lost,
    records := s.refill.records, gates := s.refill.gates } := by
  have h := State.refill_induction (s := s) (P := fun t => t.pending = s.pending ∧ t.pins = s.pins ∧ t.powered = s.powered
    ∧ t.clkRunning = s.clkRunning ∧ t.sysrst = s.sysrst ∧ t.arrival = s.arrival ∧ t.offer = s.offer ∧ t.lastTag = s.lastTag
    ∧ t.lastResponse = s.lastResponse ∧ t.nextId = s.nextId ∧ t.entries = s.entries ∧ t.slots = s.slots
    ∧ t.responseLimit = s.responseLimit ∧ t.arbiter = s.arbiter ∧ t.memoryRequest = s.memoryRequest
    ∧ t.waitsPending = s.waitsPending ∧ t.waitsComplete = s.waitsComplete
    ∧ t.enableCompletions = s.enableCompletions ∧ t.enableStored = s.enableStored ∧ t.probe = s.probe
    ∧ t.lcsLow = s.lcsLow ∧ t.period = s.period ∧ t.held = s.held ∧ t.requestBuffer = s.requestBuffer ∧ t.requestCount = s.requestCount ∧ t.ldo = s.ldo)
    (fun t e rest h _ _ => by simpa [State.moveStalled] using h)
    ⟨rfl, rfl, rfl, rfl, rfl, rfl, rfl, rfl, rfl, rfl, rfl, rfl, rfl, rfl, rfl, rfl,
      rfl, rfl, rfl, rfl, rfl, rfl, rfl, rfl, rfl, rfl⟩
  obtain ⟨h1, h2, h3, h4, h5, h6, h7, h8, h9, h10, h11, h12, h13, h14, h15, h16, h17, h18, h19, h20, h21, h22,
    h23, h24, h25, h26⟩ := h
  exact State.ext h1 h2 h3 h4 h5 h6 h7 h8 h9 rfl h10 h11 rfl h12 h13 h14 h15 rfl rfl rfl rfl h16 h17 h18 h19 h20
    h21 h22 h23 h24 h25 h26

/-! ## The probe -/

/-- The completion of a probe in flight (R151). -/
theorem State.finishProbe_eq {s : State} {q : ProbeRequest} (code : ProbeCode) (values : List Beat)
    (h : s.probe = .queued q ∨ s.probe = .atMemory q) :
    s.finishProbe code values =
      { s with probe := .done q code (answerData q.access q.beats values) }.place (.probeDone code) none := by
  rcases h with h | h <;> simp [State.finishProbe, h]

/-- With no probe in flight nothing completes. -/
theorem State.finishProbe_of_not {s : State} (code : ProbeCode) (values : List Beat)
    (h : s.probe.inFlight = false) : s.finishProbe code values = s := by
  unfold State.finishProbe
  split <;> simp_all [Probe.inFlight]

/-! ## The response channel -/

theorem State.offerNext_of_some {s : State} {tag : Tag} (h : s.offer = some tag) : s.offerNext = s := by
  simp [State.offerNext, h]

theorem State.offerNext_of_none {s : State} (h : s.offer = none) :
    s.offerNext = { s with offer := s.responseOrder.find? fun tag => (s.deliverable tag).isSome } := by
  simp [State.offerNext, h]

/-- An offer changes the response channel alone. -/
theorem State.offerNext_frame (s : State) : s.offerNext = { s with offer := s.offerNext.offer } := by
  cases h : s.offer with
  | none => rw [State.offerNext_of_none h]
  | some tag => rw [State.offerNext_of_some h]

/-- The rotation meets every tag (R20). -/
theorem State.mem_responseOrder (s : State) (tag : Tag) : tag ∈ s.responseOrder := by
  unfold State.responseOrder
  generalize s.lastTag = l
  revert l tag; decide

/-- After an offer the channel's law holds if what was already offered is deliverable (R19, R20). -/
theorem State.offerNext_law {s : State} (h : ∀ t : Tag, s.offer = some t → (s.deliverable t).isSome = true) :
    s.offerNext.OfferLaw := by
  cases ho : s.offer with
  | some tag =>
    rw [State.offerNext_of_some ho]
    exact ⟨h, by simp [ho]⟩
  | none =>
    rw [State.offerNext_of_none ho]
    constructor
    · intro t ht
      exact List.find?_some (p := fun tag => (s.deliverable tag).isSome) ht
    · intro hn t
      have := List.find?_eq_none.1 hn t (s.mem_responseOrder t)
      exact Option.not_isSome_iff_eq_none.1 this

/-! ## The link's response -/

/-- A request whose period the link takes acts and leaves its response PREPARING (R163, R165). -/
theorem State.request_of_taken {s : State} (h : s.takesPeriods = true) (bytes : List Byte)
    (act : State → State × Reply) :
    s.request bytes act = .next ((act s).1.endPeriod bytes (.preparing (act s).2.frame)) := by
  simp [State.request, State.whenTakingPeriods, h]

/-- The part takes events exactly when power-on has completed and CLK runs (R177, R178). -/
theorem State.takesEvents_iff {s : State} :
    s.takesEvents = true ↔ s.powered = true ∧ s.clkRunning = true := by
  simp [State.takesEvents]

/-- The link takes a whole period exactly when the part takes events and LCS_N is high (R172). -/
theorem State.takesPeriods_iff {s : State} :
    s.takesPeriods = true ↔ s.takesEvents = true ∧ s.lcsLow = false := by
  simp [State.takesPeriods]

theorem State.takesPeriods_of_not {s : State} (h : s.takesEvents = false) : s.takesPeriods = false := by
  simp [State.takesPeriods, h]

/-- During power-on and while CLK is stopped nothing is taken (R177, R178). -/
theorem State.whenTakingEvents_of_not {s : State} (h : s.takesEvents = false) (f : State → State) :
    s.whenTakingEvents f = .next s := by
  simp [State.whenTakingEvents, h]

theorem State.whenTakingEvents_of {s : State} (h : s.takesEvents = true) (f : State → State) :
    s.whenTakingEvents f = .next (f s) := by
  simp [State.whenTakingEvents, h]

/-- Nor is a period then, or while LCS_N is low (R172). -/
theorem State.whenTakingPeriods_of_not {s : State} (h : s.takesPeriods = false) (f : State → State) :
    s.whenTakingPeriods f = .next s := by
  simp [State.whenTakingPeriods, h]

theorem State.whenTakingPeriods_of {s : State} (h : s.takesPeriods = true) (f : State → State) :
    s.whenTakingPeriods f = .next (f s) := by
  simp [State.whenTakingPeriods, h]

@[simp] theorem byteOf_toNat_tag (t : Tag) : (byteOf t.val).toNat = t.val := by
  simp [byteOf]; omega

@[simp] theorem byteOf_toNat_watch (i : WatchIndex) : (byteOf i.val).toNat = i.val := by
  simp [byteOf]; omega

/-- A tag below 8 is handed to the request (R59). -/
theorem withTag_byteOf (t : Tag) (act : Tag → State → State × Reply) (s : State) :
    withTag (byteOf t.val) act s = act t s := by
  simp [withTag, tagOf]

/-- A tag above 7 is refused with BAD-INDEX (R59). -/
theorem withTag_above {b : Byte} (h : 8 ≤ b.toNat) (act : Tag → State → State × Reply) (s : State) :
    withTag b act s = (s, .refuse .badIndex) := by
  simp [withTag, tagOf, Nat.not_lt.2 h]

/-- An index below 16 is handed to the request. -/
theorem withEntry_byteOf (i : WatchIndex) (act : WatchIndex → State → State × Reply) (s : State) :
    withEntry (byteOf i.val) act s = act i s := by
  simp [withEntry, watchOf]

/-- An index above 15 is refused with BAD-INDEX (R27, R30, R47). -/
theorem withEntry_above {b : Byte} (h : 16 ≤ b.toNat) (act : WatchIndex → State → State × Reply) (s : State) :
    withEntry b act s = (s, .refuse .badIndex) := by
  simp [withEntry, watchOf, Nat.not_lt.2 h]

end Sys2Proof.Machine
end

