-- ==== Sys2Proof/Laws/PerInstr.lean ====
section
/-! SUPPORT. A law told command by command: the payload of a request fits a frame and has a length that its
code permits (R161, R162, R181; 10.2). -/

namespace Sys2Proof.Laws

open Machine

/-- A command that can occur at the pins and is carried by a request frame has a payload of at most 160 bytes
whose length is permitted for its code. -/
def PayloadLength.Statement (i : Instr) : Prop :=
  i.wellFormed = true → ∀ code, i.requestCode = some code →
    i.payload.length ≤ 160 ∧ lengthPermitted code i.payload = true

/-- A command without a request code satisfies the law. -/
theorem PayloadLength.of_none {i : Instr} (h : i.requestCode = none) : PayloadLength.Statement i := by
  intro _ code hc
  rw [h] at hc
  cases hc

/-- A command whose payload length is fixed satisfies the law. -/
theorem PayloadLength.of_some {i : Instr} {code : Byte} (h : i.requestCode = some code)
    (hl : i.payload.length ≤ 160) (hp : lengthPermitted code i.payload = true) :
    PayloadLength.Statement i := by
  intro _ c hc
  rw [h] at hc
  cases hc
  exact ⟨hl, hp⟩

/-- The presence mark tells which optional groups follow (10.4). -/
theorem mark_bits (d : RawDefinition) : d.mark.getLsbD 0 = d.qualifier.isSome
    ∧ d.mark.getLsbD 1 = d.skip.isSome ∧ d.mark.getLsbD 2 = d.arms.isSome := by
  refine ⟨?_, ?_, ?_⟩ <;> simp only [RawDefinition.mark, BitVec.getLsbD_append] <;> simp

/-- A list of 8-byte values. -/
theorem beats_length (l : List Beat) : (l.flatMap beatBytes).length = 8 * l.length := by
  induction l with
  | nil => rfl
  | cons v vs ih => simp only [List.flatMap_cons, List.length_append, ih, List.length_cons]; simp [beatBytes]; omega

/-- A list of beats with their enables. -/
theorem writeBeats_length (l : List WriteBeat) :
    (l.flatMap fun b => beatBytes b.data ++ [b.enables]).length = 9 * l.length := by
  induction l with
  | nil => rfl
  | cons v vs ih => simp only [List.flatMap_cons, List.length_append, ih, List.length_cons]; simp [beatBytes]; omega

theorem PayloadLength.acceptance (tag : Tag) (privilege : Privilege) (address : Addr) (body : RequestBody) :
    PayloadLength.Statement (.acceptance tag privilege address body) := PayloadLength.of_none rfl

theorem PayloadLength.delivery : PayloadLength.Statement (.delivery) := PayloadLength.of_none rfl

theorem PayloadLength.grant : PayloadLength.Statement (.grant) := PayloadLength.of_none rfl

theorem PayloadLength.answer (slot : SlotIndex) (code : MemoryCode) (data : List Beat) :
    PayloadLength.Statement (.answer slot code data) := PayloadLength.of_none rfl

theorem PayloadLength.responseTimerExpiry (slot : SlotIndex) :
    PayloadLength.Statement (.responseTimerExpiry slot) := PayloadLength.of_none rfl

theorem PayloadLength.holdTimerExpiry (tag : Tag) :
    PayloadLength.Statement (.holdTimerExpiry tag) := PayloadLength.of_none rfl

theorem PayloadLength.sysrstAssertion (holdboot : Bool) :
    PayloadLength.Statement (.sysrstAssertion holdboot) := PayloadLength.of_none rfl

theorem PayloadLength.sysrstRelease : PayloadLength.Statement (.sysrstRelease) := PayloadLength.of_none rfl

theorem PayloadLength.powerOn (holdboot : Bool) (sysrstLow : Bool) :
    PayloadLength.Statement (.powerOn holdboot sysrstLow) := PayloadLength.of_none rfl

theorem PayloadLength.readPeriod (bytes : Nat) (readyAfter : Option Nat) :
    PayloadLength.Statement (.readPeriod bytes readyAfter) := PayloadLength.of_none rfl

theorem PayloadLength.responseReady : PayloadLength.Statement (.responseReady) := PayloadLength.of_none rfl

theorem PayloadLength.badFrame (bytes : List Byte) :
    PayloadLength.Statement (.badFrame bytes) := PayloadLength.of_none rfl

theorem PayloadLength.badRequest (bytes : List Byte) :
    PayloadLength.Statement (.badRequest bytes) := PayloadLength.of_none rfl

theorem PayloadLength.ident :
    PayloadLength.Statement (.ident) := PayloadLength.of_some rfl (Nat.le_of_ble_eq_true rfl) rfl

theorem PayloadLength.clear :
    PayloadLength.Statement (.clear) := PayloadLength.of_some rfl (Nat.le_of_ble_eq_true rfl) rfl

theorem PayloadLength.setResponseLimit (limit : BitVec 16) :
    PayloadLength.Statement (.setResponseLimit limit) := PayloadLength.of_some rfl (Nat.le_of_ble_eq_true rfl) rfl

theorem PayloadLength.watchWrite (index : Byte) (definition : RawDefinition) :
    PayloadLength.Statement (.watchWrite index definition) := by
  obtain ⟨hq, hs, ha⟩ := mark_bits definition
  have h16 : (Instr.watchWrite index definition).payload[16]? = some definition.mark := rfl
  refine PayloadLength.of_some rfl ?_ ?_
  · simp only [Instr.payload, RawDefinition.bytes]
    rcases definition.qualifier with _ | _ <;> rcases definition.skip with _ | _ <;>
      rcases definition.arms with _ | _ <;> simp [u32Bytes, u16Bytes, beatBytes]
  · show (match (Instr.watchWrite index definition).payload[16]? with
      | none => false
      | some mark => (Instr.watchWrite index definition).payload.length
          == 17 + (if mark.getLsbD 0 then 16 else 0) + (if mark.getLsbD 1 then 2 else 0)
            + (if mark.getLsbD 2 then 1 else 0)) = true
    rw [h16]
    simp only [hq, hs, ha, Instr.payload, RawDefinition.bytes]
    rcases definition.qualifier with _ | _ <;> rcases definition.skip with _ | _ <;>
      rcases definition.arms with _ | _ <;> simp [u32Bytes, u16Bytes, beatBytes]

theorem PayloadLength.watchRead (index : Byte) :
    PayloadLength.Statement (.watchRead index) := PayloadLength.of_some rfl (Nat.le_of_ble_eq_true rfl) rfl

theorem PayloadLength.disable (index : Byte) :
    PayloadLength.Statement (.disable index) := PayloadLength.of_some rfl (Nat.le_of_ble_eq_true rfl) rfl

theorem PayloadLength.enableLive (index : Byte) :
    PayloadLength.Statement (.enableLive index) := PayloadLength.of_some rfl (Nat.le_of_ble_eq_true rfl) rfl

theorem PayloadLength.enableDormant (index : Byte) :
    PayloadLength.Statement (.enableDormant index) := PayloadLength.of_some rfl (Nat.le_of_ble_eq_true rfl) rfl

theorem PayloadLength.rearm (index : Byte) :
    PayloadLength.Statement (.rearm index) := PayloadLength.of_some rfl (Nat.le_of_ble_eq_true rfl) rfl

theorem PayloadLength.tagRead (tag : Byte) :
    PayloadLength.Statement (.tagRead tag) := PayloadLength.of_some rfl (Nat.le_of_ble_eq_true rfl) rfl

theorem PayloadLength.tagFreeze (tag : Byte) :
    PayloadLength.Statement (.tagFreeze tag) := PayloadLength.of_some rfl (Nat.le_of_ble_eq_true rfl) rfl

theorem PayloadLength.tagResume (tag : Byte) :
    PayloadLength.Statement (.tagResume tag) := PayloadLength.of_some rfl (Nat.le_of_ble_eq_true rfl) rfl

theorem PayloadLength.tagStep (tag : Byte) (n : BitVec 16) :
    PayloadLength.Statement (.tagStep tag n) := PayloadLength.of_some rfl (Nat.le_of_ble_eq_true rfl) rfl

theorem PayloadLength.tagWithdraw (tag : Byte) (after : Byte) :
    PayloadLength.Statement (.tagWithdraw tag after) := PayloadLength.of_some rfl (Nat.le_of_ble_eq_true rfl) rfl

theorem PayloadLength.tagLimit (tag : Byte) (limit : BitVec 16) (policy : Byte) :
    PayloadLength.Statement (.tagLimit tag limit policy) := PayloadLength.of_some rfl (Nat.le_of_ble_eq_true rfl) rfl

theorem PayloadLength.heldList (tag : Byte) :
    PayloadLength.Statement (.heldList tag) := PayloadLength.of_some rfl (Nat.le_of_ble_eq_true rfl) rfl

theorem PayloadLength.heldPatch (tag : Byte) (beat : Byte) (data : Beat) (enables : Byte) :
    PayloadLength.Statement (.heldPatch tag beat data enables) := PayloadLength.of_some rfl (Nat.le_of_ble_eq_true rfl) rfl

theorem PayloadLength.heldAnswer (tag : Byte) (values : List Beat) :
    PayloadLength.Statement (.heldAnswer tag values) := by
  intro hw code hc
  have hn : values.length ≤ 16 := by simpa [Instr.wellFormed] using hw
  have hb : (byteOf values.length).toNat = values.length := by simp [byteOf]; omega
  cases hc
  refine ⟨?_, ?_⟩
  · simp only [Instr.payload, List.length_cons, beats_length]; omega
  · show (decide ((byteOf values.length).toNat ≤ 16) && (Instr.heldAnswer tag values).payload.length
      == 2 + 8 * (byteOf values.length).toNat) = true
    simp only [hb, Instr.payload, List.length_cons, beats_length]
    simp; omega

theorem PayloadLength.eventTake :
    PayloadLength.Statement (.eventTake) := PayloadLength.of_some rfl (Nat.le_of_ble_eq_true rfl) rfl

theorem PayloadLength.eventStatus :
    PayloadLength.Statement (.eventStatus) := PayloadLength.of_some rfl (Nat.le_of_ble_eq_true rfl) rfl

theorem PayloadLength.eventDiscard :
    PayloadLength.Statement (.eventDiscard) := PayloadLength.of_some rfl (Nat.le_of_ble_eq_true rfl) rfl

theorem PayloadLength.waitPost (handle : Byte) (kinds : Byte) (tags : Byte) (watches : BitVec 16) :
    PayloadLength.Statement (.waitPost handle kinds tags watches) := PayloadLength.of_some rfl (Nat.le_of_ble_eq_true rfl) rfl

theorem PayloadLength.waitCancel (handle : Byte) :
    PayloadLength.Statement (.waitCancel handle) := PayloadLength.of_some rfl (Nat.le_of_ble_eq_true rfl) rfl

theorem PayloadLength.waitTake :
    PayloadLength.Statement (.waitTake) := PayloadLength.of_some rfl (Nat.le_of_ble_eq_true rfl) rfl

theorem PayloadLength.attnSet (conditions : Byte) :
    PayloadLength.Statement (.attnSet conditions) := PayloadLength.of_some rfl (Nat.le_of_ble_eq_true rfl) rfl

theorem PayloadLength.probeRead (address : Addr) (beats : Byte) :
    PayloadLength.Statement (.probeRead address beats) := PayloadLength.of_some rfl (Nat.le_of_ble_eq_true rfl) rfl

theorem PayloadLength.probeWrite (address : Addr) (beats : List WriteBeat) :
    PayloadLength.Statement (.probeWrite address beats) := by
  intro hw code hc
  have hn : beats.length ≤ 17 := by simpa [Instr.wellFormed] using hw
  have hb : (byteOf beats.length).toNat = beats.length := by simp [byteOf]; omega
  cases hc
  refine ⟨?_, ?_⟩
  · simp only [Instr.payload, List.length_append, List.length_cons, writeBeats_length]
    simp [u32Bytes]; omega
  · show ((Instr.probeWrite address beats).payload.length == 5 + 9 * (byteOf beats.length).toNat) = true
    simp only [hb, Instr.payload, List.length_append, List.length_cons, writeBeats_length]
    simp [u32Bytes]; omega

theorem PayloadLength.probeResult :
    PayloadLength.Statement (.probeResult) := PayloadLength.of_some rfl (Nat.le_of_ble_eq_true rfl) rfl

theorem PayloadLength.probeCancel :
    PayloadLength.Statement (.probeCancel) := PayloadLength.of_some rfl (Nat.le_of_ble_eq_true rfl) rfl

theorem PayloadLength.powerOnBegin : PayloadLength.Statement (.powerOnBegin) := PayloadLength.of_none rfl

theorem PayloadLength.watchState (index : Byte) (parameter : Byte) :
    PayloadLength.Statement (.watchState index parameter) := PayloadLength.of_some rfl (Nat.le_of_ble_eq_true rfl) rfl

end Sys2Proof.Laws
end

