-- ==== Sys2Proof/Laws/Pins.lean ====
section
/-! SUPPORT. What the pins below the commands do: bits and bytes, the edges of LCK and LCS_N, a byte that becomes
complete, the end of a period, and pin changes taken one after another. -/

namespace Sys2Proof.Machine

/-! ## Bits and bytes -/

/-- Eight bits as they are carried spell the byte they come from (R157). -/
theorem byteOfBits_byteBits (b : Byte) : byteOfBits (byteBits b) = b := by
  revert b; decide

@[simp] theorem byteBits_length (b : Byte) : (byteBits b).length = 8 := rfl

/-! ## Edges of LCK -/

/-- A bit that does not complete its byte joins the bits of the period (R157). -/
theorem State.lckRise_bit {s : State} {p : LinkPeriod} (h : s.period = some p) (hb : p.bits.length < 7)
    (ldi : Bool) : s.lckRise ldi = { s with period := some { p with bits := p.bits ++ [ldi] } } := by
  simp [State.lckRise, h, hb]

/-- The eighth bit completes a byte (R157). -/
theorem State.lckRise_byte {s : State} {p : LinkPeriod} (h : s.period = some p) (hb : 7 ≤ p.bits.length)
    (ldi : Bool) : s.lckRise ldi = s.byteComplete p (byteOfBits (p.bits ++ [ldi])) := by
  simp [State.lckRise, h, Nat.not_lt.2 hb]

/-- Where no period was taken, bits are not counted (R172). -/
theorem State.lckRise_of_none {s : State} (h : s.period = none) (ldi : Bool) : s.lckRise ldi = s := by
  simp [State.lckRise, h]

/-- Within an outgoing byte a falling edge goes on to its next bit (R157). -/
theorem LinkPeriod.lckFall_within {p : LinkPeriod} (h : p.received.length ≤ p.index) (held : HeldResponse) :
    p.lckFall held = { p with shown := p.bits.length } := by
  simp [LinkPeriod.lckFall, Nat.not_lt.2 h]

/-- Behind a complete byte a falling edge begins the next outgoing byte (R157, R166). -/
theorem LinkPeriod.lckFall_next {p : LinkPeriod} (h : p.index < p.received.length) (held : HeldResponse) :
    p.lckFall held = { p with
      sending := (p.nextOut held).1
      place := (p.nextOut held).2
      index := p.received.length
      shown := p.bits.length } := by
  simp [LinkPeriod.lckFall, h]

/-- Everything a complete byte can do: the first one decides what the period is, and later ones are sent against
in a read period or kept and counted in a request period (R158, R159, R166). -/
theorem State.byteComplete_cases (s : State) (p : LinkPeriod) (b : Byte) :
    let t := s.byteComplete p b
    (p.received = [] ∧ b = 0xFF ∧ t = { s with period := t.period, ldo := [p.sending] }
      ∨ p.received = [] ∧ b ≠ 0xFF ∧ t = { s with
          period := t.period, ldo := [p.sending], held := .none, requestBuffer := [b], requestCount := 1 }
      ∨ p.received ≠ [] ∧ p.isRead = true ∧ t = { s with
          period := t.period, ldo := s.ldo ++ [p.sending], held := p.heldAfterByte s.held }
      ∨ p.received ≠ [] ∧ p.isRead = false ∧ t = { s with
          period := t.period, ldo := s.ldo ++ [p.sending]
          requestBuffer := (s.requestBuffer ++ [b]).take 163, requestCount := s.requestCount + 1 })
    ∧ t.period = some { p with bits := [], received := p.received ++ [b] } := by
  cases h : p.received with
  | nil =>
    by_cases hb : b = 0xFF
    · simp only [State.byteComplete, h, if_pos hb]
      exact ⟨.inl ⟨trivial, hb, trivial⟩, trivial⟩
    · simp only [State.byteComplete, h, if_neg hb]
      exact ⟨.inr (.inl ⟨trivial, hb, trivial⟩), trivial⟩
  | cons c l =>
    cases hr : p.isRead
    · simp only [State.byteComplete, h, hr, Bool.false_eq_true, if_false]
      exact ⟨.inr (.inr (.inr ⟨by simp, trivial, trivial⟩)), trivial⟩
    · simp only [State.byteComplete, h, hr, if_true]
      exact ⟨.inr (.inr (.inl ⟨by simp, trivial, trivial⟩)), trivial⟩

/-- A complete byte changes the link alone (R158, R159). -/
theorem State.byteComplete_frame (s : State) (p : LinkPeriod) (b : Byte) :
    let t := s.byteComplete p b
    t = { s with
      period := t.period, ldo := t.ldo, held := t.held, requestBuffer := t.requestBuffer,
      requestCount := t.requestCount } := by
  simp only [State.byteComplete]
  split <;> split <;> rfl

/-! ## Periods -/

/-- A falling edge of LCS_N begins a period where the part takes events (R157). -/
theorem State.takePin_lcsFall {s : State} (h : s.takesPeriods = true) :
    s.takePin .lcsFall = .next { s with lcsLow := true, period := some .begun } := by
  simp [State.takesPeriods_iff] at h
  simp [State.takePin, h]

/-- A period without a complete byte, and a read period, end without more (R158). -/
theorem State.periodEnds_quiet {s : State} {p : LinkPeriod} (h : s.period = some p)
    (hr : p.received = [] ∨ p.isRead = true) : s.periodEnds = .next { s with period := none } := by
  rcases hr with hr | hr <;> simp [State.periodEnds, h, hr]

/-- A request period is judged and taken at its end (R161, R163). -/
theorem State.periodEnds_request {s : State} {p : LinkPeriod} (h : s.period = some p) (hn : p.received ≠ [])
    (hr : p.isRead = false) : s.periodEnds = runPeriod p.received { s with period := none } := by
  simp [State.periodEnds, h, hn, hr]

/-- With no period in progress nothing ends. -/
theorem State.periodEnds_of_none {s : State} (h : s.period = none) : s.periodEnds = .next s := by
  simp [State.periodEnds, h]

/-- Pin changes in two lists are taken one list after the other. -/
theorem State.takePins_append {s t : State} {a b : List PinChange} (h : s.takePins a = .next t) :
    s.takePins (a ++ b) = t.takePins b := by
  induction a generalizing s with
  | nil => simp only [State.takePins] at h; cases h; rfl
  | cons c a ih =>
    simp only [List.cons_append, State.takePins] at h ⊢
    split at h
    · exact ih h
    · cases h
    · cases h

end Sys2Proof.Machine
end

