-- ==== Sys2Proof/Laws/Requests.lean ====
section
/-! SUPPORT. What the operations shared by the commands of the blocks do: a reply of a block as it stands on
the link, the head of a closed gate, the release and the withdrawal of a tag, the answer to a record, an
evaluation entry by entry, and a placement told from the event unit alone. -/

namespace Sys2Proof.Machine

/-! ## Replies -/

/-- A refusal of a block leaves everything but the link as it was (R169). -/
theorem State.request_refuse {s : State} (h : s.takesPeriods = true) {bytes : List Byte}
    {act : State → State × Reply} {status : Status} (ha : act s = (s, .refuse status)) :
    ∃ t, s.request bytes act = .next t ∧ t = s.withLinkOf t ∧ t.held = .preparing (frame status.code []) := by
  rw [State.request_of_taken h, ha]
  exact ⟨_, rfl, rfl, rfl⟩

/-- An OK reply of a block, on the state the block leaves (R164, R165). -/
theorem State.request_ok {s u : State} (h : s.takesPeriods = true) {code : Byte} {payload data : List Byte}
    {act : State → State × Reply} (ha : act s = (u, .ok data)) :
    ∃ t, s.request (frame code payload) act = .next t ∧ t.Responds code payload 0x00 data
      ∧ t = u.withLinkOf t := by
  rw [State.request_of_taken h, ha]
  refine ⟨_, rfl, ⟨rfl, rfl, ?_, ?_⟩, rfl⟩ <;> simp [State.endPeriod, frame]

/-! ## Heads -/

/-- A tag without a held head: its gate is not CLOSED, or it has no GATED record. -/
theorem State.heldHead_none {s : State} {tag : Tag}
    (h : s.gates[tag].state.isClosed = false ∨ hasGated s.records[tag] = false) : s.heldHead tag = none := by
  rcases h with h | h
  · simp only [State.heldHead, h]; rfl
  · simp only [State.heldHead, headOf_eq_none.2 h, ite_self]

/-- The held head of a CLOSED gate is the tag's oldest GATED record. -/
theorem State.heldHead_some {s : State} {tag : Tag} {pre post : List TransitRecord} {h : TransitRecord}
    (hc : s.gates[tag].state.isClosed = true) (hl : s.records[tag] = pre ++ h :: post)
    (hp : hasGated pre = false) (hg : h.isGated = true) : s.heldHead tag = some h := by
  simp only [State.heldHead, hc, if_true, hl, headOf_append hp hg]

/-- The head's hold is spent and no other record changes (R56). -/
theorem State.spendHead_eq {s : State} {tag : Tag} {pre post : List TransitRecord} {h : TransitRecord}
    (hl : s.records[tag] = pre ++ h :: post) (hp : hasGated pre = false) (hg : h.isGated = true) :
    s.spendHead tag = s.setRecords tag (pre ++ { h with spent := true } :: post) := by
  simp only [State.spendHead, hl, onHead_append hp hg]

/-! ## Answers to records -/

/-- The one record of a tag that names a slot is answered, and no other record changes (R87, R92). -/
theorem State.answerRecord_eq {s : State} {tag : Tag} {slot : SlotIndex} {pre post : List TransitRecord}
    {r : TransitRecord} (code : AnswerCode) (values : List Beat) (hl : s.records[tag] = pre ++ r :: post)
    (hr : r.inSlot slot = true) (h : ∀ x ∈ pre ++ post, x.inSlot slot = false) :
    s.answerRecord tag slot code values = s.setRecords tag (pre ++ r.answeredWith code values :: post) := by
  have keep : ∀ l : List TransitRecord, (∀ x ∈ l, x.inSlot slot = false) →
      (l.map fun x => if x.inSlot slot then x.answeredWith code values else x) = l := by
    intro l hl
    conv_rhs => rw [← List.map_id l]
    apply List.map_congr_left
    intro x hx
    simp only [hl x hx, Bool.false_eq_true, if_false, id_eq]
  simp only [State.answerRecord, hl, List.map_append, List.map_cons, hr, if_true,
    keep pre fun x hx => h x (List.mem_append_left _ hx), keep post fun x hx => h x (List.mem_append_right _ hx)]

/-- After a withdrawal the tag has its records withdrawn, its gate in the new state and its timer stopped,
and nothing else changes (R64, R73). -/
theorem State.withdraw_eq (s : State) (tag : Tag) (state : GateState) : s.withdraw tag state =
    (s.setRecords tag (withdrawGated s.records[tag])).setGate tag
      { s.gates[tag] with state := state, timer := none } := by
  simp [State.withdraw, State.settleTimer, State.setGate, State.setRecords, Gate.settleTimer]

/-! ## Evaluations -/

/-- An entry after an evaluation: armed, or as its own judgement leaves it (R36, R37). -/
theorem evaluateEntries_get (entries : Vector WatchEntry 16) (judge : WatchEntry → Judgement)
    (x : Transaction) (i : WatchIndex) : (evaluateEntries entries judge x)[i] =
      if armedBy entries (firedList entries judge) i then { entries[i] with state := .live }
      else entries[i].afterJudgement x (judge entries[i]) := by
  simp [evaluateEntries]

/-- The fired list holds the entries that fire (R38). -/
theorem mem_firedList {entries : Vector WatchEntry 16} {judge : WatchEntry → Judgement} {i : WatchIndex} :
    i ∈ firedList entries judge ↔ entries[i].firesOn (judge entries[i]) = true := by
  have : i ∈ allWatches := by revert i; decide
  simp [firedList, this]

/-! ## Placement by the event unit alone -/

/-- What a placement does to the event unit and the waits depends on these alone, and it stalls the linked
record exactly when the event is lossless and finds neither a wait nor room (R105). -/
theorem State.place_of_unit (s : State) (e : Event) (l : Option RecordLink) :
    ∃ b : Bool,
      (b = true ↔ l ≠ none ∧ 32 ≤ s.store.length ∧ ∀ w ∈ s.waitsPending, w.selector.accepts e = false)
      ∧ ∀ u : State, u.store = s.store → u.stalls = s.stalls → u.lost = s.lost → u.sequence = s.sequence →
        u.waitsPending = s.waitsPending → u.waitsComplete = s.waitsComplete →
        u.place e l = { u with
          store := (s.place e l).store
          stalls := (s.place e l).stalls
          lost := (s.place e l).lost
          sequence := (s.place e l).sequence
          waitsPending := (s.place e l).waitsPending
          waitsComplete := (s.place e l).waitsComplete
          records := if b then
              match l with
              | some k => (u.markStall k true).records
              | none => u.records
            else u.records } := by
  rcases h : takeFirst (fun w : PendingWait => w.selector.accepts e) s.waitsPending with _ | ⟨w, rest⟩
  · have hw := takeFirst_eq_none.1 h
    by_cases hs : s.store.length < 32
    · refine ⟨false, ⟨fun hf => (nomatch hf), fun hf => absurd hf.2.1 (by omega)⟩, ?_⟩
      intro u h1 h2 h3 h4 h5 h6
      rw [State.place_store hw hs, State.place_store (by rwa [h5]) (by rwa [h1])]
      simp [h1, h2, h3, h4, h5, h6]
    · rcases l with _ | k
      · refine ⟨false, ⟨fun hf => (nomatch hf), fun hf => absurd rfl hf.1⟩, ?_⟩
        intro u h1 h2 h3 h4 h5 h6
        rw [State.place_drop hw (by omega), State.place_drop (by rwa [h5]) (by rw [h1]; omega)]
        simp only [h3, Bool.false_eq_true, if_false]
        rw [← h1, ← h2, ← h4, ← h5, ← h6]
      · refine ⟨true, ⟨fun _ => ⟨by simp, by omega, hw⟩, fun _ => rfl⟩, ?_⟩
        intro u h1 h2 h3 h4 h5 h6
        rw [State.place_stall hw (by omega), State.place_stall (by rwa [h5]) (by rw [h1]; omega)]
        simp [State.markStall, State.setRecords, h1, h2, h3, h4, h5, h6]
  · obtain ⟨pre, post, h1, h2, h3, h4⟩ := takeFirst_eq_some h
    refine ⟨false, ⟨fun hf => (nomatch hf), ?_⟩, ?_⟩
    · rintro ⟨_, _, hn⟩
      have := hn w (by rw [h1]; simp)
      simp [this] at h4
    · intro u h1 h2 h3 h4 h5 h6
      rw [State.place_wait h, State.place_wait (by rwa [h5])]
      simp [h1, h2, h3, h4, h6]

end Sys2Proof.Machine
end

