-- ==== Sys2Proof/Tests/Slice0.lean ====
section
/-! SUPPORT. Tests. The expected values come from the manual: its worked sessions (chapter 11), its examples
and its rules; frame CRCs were computed by hand from R160. The last part shows, for each statement of
Certificates/Slice0/Obligations.lean that has hypotheses, a state and operands that meet them. -/

namespace Sys2Proof.Tests

open Machine

set_option maxRecDepth 100000

/-! ## Helpers -/

/-- The state after a command. -/
def run (s : State) (i : Instr) : State :=
  match exec i s with
  | .next t => t
  | _ => s

/-- The response frame a command leaves in PREPARING. -/
def reply (s : State) (i : Instr) : List Byte :=
  match (run s i).held with
  | .preparing f => f
  | _ => []

/-- A one-beat WRITE record at 00000100h with a given phase. -/
def wrec (phase : Phase) : TransitRecord where
  id := 0
  privilege := .user
  access := .write
  address := 0x100
  beats := 1
  writeData := [⟨0x11, 0xFF⟩]
  arrival := 7
  phase := phase
  stalled := false
  decision := .none
  fired := []
  spent := false

/-- A two-beat READ record at 00000200h with a given phase. -/
def rrec (phase : Phase) : TransitRecord where
  id := 1
  privilege := .supervisor
  access := .read
  address := 0x200
  beats := 2
  writeData := []
  arrival := 8
  phase := phase
  stalled := false
  decision := .none
  fired := []
  spent := false

/-- The reset state with records of tag 2, whose gate is in a given state, and marks from 4 on unused. -/
def tag2 (g : GateState) (l : List TransitRecord) : State :=
  { (State.reset.setRecords 2 l).setGate 2 ⟨g, 0, .pass, none⟩ with nextId := 4 }

/-- A definition that watches WRITEs of tag 2 in 00000000h to 00000FFFh. -/
def watched (action : Action) (report : Report) : Definition :=
  { Definition.powerOn with limit := 0xFFF, access := .write, tags := 0x04, action, report, startLive := true }

/-- The reset state with a defined, LIVE entry 3. -/
def watching (action : Action) (report : Report) : State :=
  State.reset.setEntry 3 (.written (watched action report))

/-- A store of 32 TARGET-RESET events. -/
def fullStore : List Delivered := List.replicate 32 ⟨300, 0, .targetReset⟩

/-- A probe request of 2 beats at 00100050h. -/
def probe2 : ProbeRequest := ⟨.read, 0x00100050, 2, []⟩

/-- A wait selector for PROBE-DONE and TARGET-RESET (session 5). -/
def resetSelector : Selector := ⟨0x60, 0x00, 0x0000⟩

/-! ## WellFormed: an ill-formed term for each check -/

theorem test_illFormed_acceptance_32_beats :
    (Instr.acceptance 0 .user 0 (.write (List.replicate 32 ⟨0, 1⟩))).wellFormed = false := by decide

theorem test_illFormed_read_period_without_byte : (Instr.readPeriod 0 none).wellFormed = false := by decide

theorem test_illFormed_bad_frame_empty : (Instr.badFrame []).wellFormed = false := by decide

theorem test_illFormed_bad_frame_read_period : (Instr.badFrame [0xFF]).wellFormed = false := by decide

theorem test_illFormed_bad_frame_correct : (Instr.badFrame [0x01, 0x00, 0xC2]).wellFormed = false := by decide

theorem test_illFormed_bad_request_permitted : (Instr.badRequest [0x01, 0x00, 0xC2]).wellFormed = false := by
  decide

theorem test_illFormed_bad_request_no_frame : (Instr.badRequest [0x99, 0x00, 0x00]).wellFormed = false := by
  decide

theorem test_illFormed_held_answer_17_values :
    (Instr.heldAnswer 0 (List.replicate 17 0)).wellFormed = false := by decide

theorem test_illFormed_probe_write_18_beats :
    (Instr.probeWrite 0 (List.replicate 18 ⟨0, 1⟩)).wellFormed = false := by decide

theorem test_illFormed_watch_state_rearm : (Instr.watchState 0 3).wellFormed = false := by decide

/-! ## Periods written out from 10.2 to 10.7 -/

theorem test_crc_worked_values : crc8 [0x00] = 0xF3 ∧ crc8 [0x00, 0x00] = 0xD7 := by decide

theorem test_period_ident : decodePeriod [0x01, 0x00, 0xC2] = some .ident := by decide

theorem test_period_setResponseLimit : decodePeriod [0x03, 0x02, 0x27, 0x10, 0x88]
    = some (.setResponseLimit 10000) := by decide

/-- Entry 3 of session 2: READ of 00200000h to 002007FFh by tag 5, skip count 1, once, HOLD-BEFORE,
LOSSLESS, DORMANT. -/
theorem test_period_watchWrite : decodePeriod [0x10, 0x13, 0x03, 0x00, 0x20, 0x00, 0x00, 0x00, 0x20, 0x07,
    0xFF, 0x00, 0x20, 0x00, 0x02, 0x02, 0x01, 0x01, 0x02, 0x00, 0x01, 0xFC]
    = some (.watchWrite 3
      { base := 0x00200000, limit := 0x002007FF, access := 0x00, tags := 0x20, privilege := 0x00,
        action := 0x02, report := 0x02, start := 0x01, once := 0x01, markHigh := 0, qualifier := none,
        skip := some 1, arms := none }) := by decide

theorem test_period_rearm : decodePeriod [0x12, 0x02, 0x03, 0x03, 0x7A] = some (.rearm 3) := by decide

theorem test_period_watchState : decodePeriod [0x12, 0x02, 0x03, 0x04, 0x6F] = some (.watchState 3 4) := by
  decide

theorem test_period_tagStep : decodePeriod [0x23, 0x03, 0x05, 0x00, 0x02, 0x0F] = some (.tagStep 5 2) := by
  decide

/-- Byte 0 of the beat comes first and stands in bits 0 to 7. -/
theorem test_period_heldPatch : decodePeriod [0x27, 0x0B, 0x06, 0x00, 0x01, 0x02, 0x03, 0x04, 0x05, 0x06,
    0x07, 0x08, 0x0F, 0x1D] = some (.heldPatch 6 0 0x0807060504030201 0x0F) := by decide

theorem test_period_waitPost : decodePeriod [0x33, 0x05, 0x0C, 0x01, 0x02, 0x01, 0x00, 0x9E]
    = some (.waitPost 12 0x01 0x02 0x0100) := by decide

theorem test_period_probeWrite : decodePeriod [0x41, 0x0E, 0x00, 0x00, 0x80, 0x00, 0x01, 0x11, 0x22, 0x33,
    0x44, 0x00, 0x00, 0x00, 0x00, 0x0F, 0x02] = some (.probeWrite 0x00008000 [⟨0x44332211, 0x0F⟩]) := by decide

theorem test_period_eventDiscard : decodePeriod [0x32, 0x00, 0x04] = some .eventDiscard := by decide

theorem test_period_badRequest : decodePeriod [0x99, 0x00, 0x8B] = some (.badRequest [0x99, 0x00, 0x8B]) := by
  decide

theorem test_period_badFrame : decodePeriod [0x01, 0x00, 0xC3] = some (.badFrame [0x01, 0x00, 0xC3]) := by
  decide

theorem test_tableWord : decodeTableWord 0 0 = none := by decide

/-! ## The initiator port -/

/-- R35, R53: a HOLD-BEFORE firing leaves the record GATED and closes the gate. -/
theorem test_acceptance_holdBefore :
    let t := run (watching .holdBefore .none) (.acceptance 2 .user 0x40 (.write [⟨0xEE, 0x01⟩]))
    t.gates[(2 : Tag)].state = .closed .watchBefore ∧ t.records[(2 : Tag)].map (·.phase) = [.gated]
      ∧ t.entries[(3 : WatchIndex)].fires = 1 ∧ t.room 2 = 3 := by decide

/-- R5, R7: 2 beats at 00000FF8h cross the end of a block. -/
theorem test_acceptance_malformed :
    let t := run State.reset (.acceptance 7 .user 0xFF8 (.read 2))
    t.records[(7 : Tag)].map (·.phase) = [.answered ⟨.malformed, [0, 0]⟩]
      ∧ t.store.map (·.event.kind) = [4] ∧ t.arrival = 1 ∧ t.offer = some 7 := by decide

/-- R20: the response of tag 2 is taken, and tag 5 is next in the rotation. -/
theorem test_delivery :
    let s := (tag2 .opened [wrec (.answered ⟨.done, []⟩)]).setRecords 5 [wrec (.answered ⟨.refused, []⟩)]
    let t := run { s with offer := some 2 } .delivery
    t.lastTag = 2 ∧ t.offer = some 5 ∧ t.room 2 = 4 ∧ t.lastResponse = some ⟨2, .done, []⟩ := by decide

/-! ## The memory port -/

/-- Session 5, step 9: with only the probe contending, it takes slot 0. -/
theorem test_grant_probe :
    let t := run { tag2 (.closed .boot) [wrec .gated] with probe := .queued probe2 } .grant
    t.probe = .atMemory probe2 ∧ t.arbiter = 8 ∧ t.slots[(0 : SlotIndex)] = .busy .probe .read 2 10000 (some 10000)
      := by decide

/-- R83: the search goes on behind the arbiter position, and the lowest FREE slot is taken. -/
theorem test_grant_rotation :
    let s := (tag2 .opened [rrec .ready]).setRecords 1 [wrec .ready]
    let t := run { s.setSlot 0 .lingering with arbiter := 1 } .grant
    t.arbiter = 2 ∧ t.records[(2 : Tag)].map (·.phase) = [.atMemory 1]
      ∧ t.records[(1 : Tag)].map (·.phase) = [.ready] := by decide

/-- The probe and a READ of tag 2 at memory, in slots 5 and 2. -/
def atMemory : State :=
  { ((tag2 .opened [rrec (.atMemory 2)]).setSlot 2 (.busy (.record 2) .read 2 100 (some 100))).setSlot 5
      (.busy .probe .read 2 100 (some 100)) with probe := .atMemory probe2 }

/-- R87: a value that the answer does not carry is zero. -/
theorem test_answer_short :
    let t := run atMemory (.answer 2 .ok [9])
    t.records[(2 : Tag)].map (·.phase) = [.answered ⟨.done, [9, 0]⟩] ∧ t.slots[(2 : SlotIndex)] = .free
      ∧ t.offer = some 2 := by decide

/-- R87: data beyond the record's beat count is discarded. -/
theorem test_answer_probe :
    let t := run atMemory (.answer 5 .ok [1, 2, 3])
    t.probe = .done probe2 .done [1, 2] ∧ t.slots[(5 : SlotIndex)] = .free
      ∧ t.store.map (·.event) = [.probeDone .done] := by decide

theorem test_responseTimerExpiry_record :
    let t := run atMemory (.responseTimerExpiry 2)
    t.records[(2 : Tag)].map (·.phase) = [.answered ⟨.noAnswer, [0, 0]⟩] ∧ t.slots[(2 : SlotIndex)] = .lingering
      ∧ t.store.map (·.event.kind) = [3] := by decide

theorem test_responseTimerExpiry_probe :
    let t := run atMemory (.responseTimerExpiry 5)
    t.probe = .done probe2 .noAnswer [0, 0] ∧ t.slots[(5 : SlotIndex)] = .lingering
      ∧ t.store.map (·.event) = [.probeDone .noAnswer] := by decide

/-- R97: the numbers of BUSY and LINGERING slots. -/
theorem test_setResponseLimit :
    reply (atMemory.setSlot 9 .lingering) (.setResponseLimit 0x0102)
      = frame 0x00 [0x01, 0x02, 0x02, 0x01] := by decide

/-! ## Resets -/

/-- Session 5, step 1: wait 50 takes the PROBE-DONE event as 703, and TARGET-RESET enters the store as 704. -/
theorem test_sysrstAssertion :
    let t := run { atMemory with sequence := 703, waitsPending := [⟨50, resetSelector⟩] } (.sysrstAssertion true)
    t.waitsComplete = [⟨50, resetSelector, ⟨703, 0, .probeDone .targetReset⟩⟩]
      ∧ t.store = [⟨704, 0, .targetReset⟩] ∧ t.probe = .done probe2 .targetReset [0, 0]
      ∧ t.gates[(0 : Tag)].state = .closed .boot := by decide

theorem test_sysrstRelease : (run { State.reset with sysrst := true } .sysrstRelease).sysrst = false := by
  decide

theorem test_powerOn :
    let t := run atMemory (.powerOn true false)
    t.gates[(7 : Tag)].state = .closed .boot ∧ t.room 2 = 4 ∧ t.probe = .idle ∧ t.responseLimit = 10000 := by
  decide

theorem test_powerOnBegin :
    let t := run atMemory .powerOnBegin
    t.roomIndication 0 = 0 ∧ run t .ident = t := by decide

/-- R25: a stalled head passes as CLEAR opens its gate. -/
theorem test_clear :
    let s := { tag2 (.closed .freeze) [{ wrec .gated with stalled := true }] with
      store := fullStore, stalls := [⟨.targetReset, ⟨2, 0⟩⟩], lost := 9, responseLimit := 0 }
    let t := run s .clear
    t.records[(2 : Tag)].map (·.phase) = [.ready] ∧ t.stalls = [] ∧ t.store = [] ∧ t.lost = 0
      ∧ t.responseLimit = 10000 := by decide

/-! ## The watch table -/

/-- The definition of entry 3 in session 2 as it is carried. -/
def raw3 : RawDefinition :=
  { base := 0x00200000, limit := 0x002007FF, access := 0x00, tags := 0x20, privilege := 0x00, action := 0x02,
    report := 0x02, start := 0x01, once := 0x01, markHigh := 0, qualifier := none, skip := some 1,
    arms := none }

/-- Session 2: after its WATCH-WRITE entry 3 is DORMANT with remaining skips 1. -/
theorem test_watchWrite :
    let t := run State.reset (.watchWrite 3 raw3)
    t.entries[(3 : WatchIndex)].state = .dormant ∧ t.entries[(3 : WatchIndex)].skips = 1
      ∧ t.entries[(3 : WatchIndex)].undefined = false := by decide

/-- R27: a data-qualified READ entry with action REFUSE is not permitted. -/
theorem test_watchWrite_refused : reply State.reset
    (.watchWrite 3 { raw3 with action := 0x04, qualifier := some ⟨0, 0xFF⟩ }) = frame 0x04 [] := by decide

/-- R48 and 10.4: the contents of an undefined entry. -/
theorem test_watchRead : reply State.reset (.watchRead 0x0F) = frame 0x00
    [0x0F, 0x01, 0x00, 0, 0, 0, 0, 0, 0, 0, 0, 0x02, 0x00, 0x00, 0x01, 0x00, 0x01, 0x00, 0x00,
     0, 0, 0, 0, 0x00] := by decide

theorem test_disable : (run (watching .note .none) (.disable 3)).entries[(3 : WatchIndex)].state = .disabled := by
  decide

theorem test_disable_undefined : reply State.reset (.disable 3) = frame 0x05 [] := by decide

theorem test_enableLive : (run (run State.reset (.watchWrite 3 raw3)) (.enableLive 3)).entries[(3 : WatchIndex)].state
    = .live := by decide

theorem test_enableDormant :
    (run (watching .note .none) (.enableDormant 3)).entries[(3 : WatchIndex)].state = .dormant := by decide

/-- Session 2: REARM returns entry 3 to DORMANT with remaining skips 1 and keeps fire count 1. -/
theorem test_rearm :
    let s := run State.reset (.watchWrite 3 raw3)
    let e := { s.entries[(3 : WatchIndex)] with state := .spent, skips := 0, fires := 1 }
    let t := run (s.setEntry 3 e) (.rearm 3)
    t.entries[(3 : WatchIndex)].state = .dormant ∧ t.entries[(3 : WatchIndex)].skips = 1
      ∧ t.entries[(3 : WatchIndex)].fires = 1 := by decide

theorem test_watchState : reply (watching .note .none) (.watchState 3 0x04) = frame 0x04 [] := by decide

/-! ## The gate unit -/

/-- R66: 2999 µs are 30 units. -/
theorem test_tagRead :
    let s := (tag2 (.closed .watchBefore) [wrec .gated]).setGate 2
      ⟨.closed .watchBefore, 50, .withdraw, some 2999⟩
    reply s (.tagRead 2) = frame 0x00 [2, 0x02, 0x00, 0, 0, 0, 50, 0x01, 0x01, 0, 30, 1, 0, 0, 0] := by decide

theorem test_tagFreeze :
    (run State.reset (.tagFreeze 4)).gates[(4 : Tag)].state = .closed .freeze := by decide

/-- R61: at cause WATCH-BEFORE the head's hold is spent, so it passes. -/
theorem test_tagResume :
    let t := run (tag2 (.closed .watchBefore) [{ wrec .gated with decision := .holdBefore }]) (.tagResume 2)
    t.records[(2 : Tag)].map (fun r => (r.phase, r.spent)) = [(.ready, true)] ∧ t.gates[(2 : Tag)].state = .opened
      := by decide

/-- Session 2, step 8: two of three records pass, and the gate closes behind the second. -/
theorem test_tagStep :
    let t := run (tag2 (.closed .stepDone) [wrec .gated, rrec .gated, wrec .gated]) (.tagStep 2 2)
    t.records[(2 : Tag)].map (·.phase) = [.ready, .ready, .gated]
      ∧ t.gates[(2 : Tag)].state = .closed .stepDone := by decide

/-- Session 4, TAG-WITHDRAW(4, CLOSED): every record is withdrawn and the gate is CLOSED with FREEZE. -/
theorem test_tagWithdraw :
    let t := run (tag2 (.closed .watchBefore) [wrec .gated, rrec .gated]) (.tagWithdraw 2 0x01)
    t.records[(2 : Tag)].map (·.phase) = [.answered ⟨.withdrawn, []⟩, .answered ⟨.withdrawn, [0, 0]⟩]
      ∧ t.gates[(2 : Tag)].state = .closed .freeze ∧ t.held = .preparing (frame 0x00 [2]) := by decide

/-- R71: a running timer restarts from the new limit. -/
theorem test_tagLimit :
    let s := (tag2 (.closed .freeze) [wrec .gated]).setGate 2 ⟨.closed .freeze, 50, .withdraw, some 7⟩
    (run s (.tagLimit 2 3 0x00)).gates[(2 : Tag)] = ⟨.closed .freeze, 3, .pass, some 300⟩ := by decide

theorem test_heldList :
    reply (tag2 (.closed .freeze) [wrec .gated]) (.heldList 2) = frame 0x00
      [2, 0x02, 0x03, 0, 0, 0, 0, 0x00, 0x00, 0, 0, 1,
       0, 7, 0x00, 0x00, 0x01, 0, 0, 1, 0, 1, 0x00, 0, 0, 0x00, 0xFF, 0xFF] := by decide

/-- Session 5, step 11: beat 0 of the held write is replaced. -/
theorem test_heldPatch :
    (run (tag2 (.closed .boot) [wrec .gated]) (.heldPatch 2 0 0x55 0x0F)).records[(2 : Tag)].map (·.writeData)
      = [[⟨0x55, 0x0F⟩]] := by decide

/-- R68, R69: the head is answered DONE, and a WATCH-BEFORE close becomes FREEZE. -/
theorem test_heldAnswer :
    let t := run (tag2 (.closed .watchBefore) [rrec .gated]) (.heldAnswer 2 [5])
    t.records[(2 : Tag)].map (·.phase) = [.answered ⟨.done, [5, 0]⟩]
      ∧ t.gates[(2 : Tag)].state = .closed .freeze ∧ t.offer = some 2 := by decide

/-- A tag held by a HOLD-BEFORE with a hold limit of 50 units and a policy. -/
def limited (policy : ExpiryPolicy) : State :=
  (tag2 (.closed .watchBefore) [{ wrec .gated with decision := .holdBefore }, rrec .gated]).setGate 2
    ⟨.closed .watchBefore, 50, policy, some 0⟩

/-- Session 4, time 5.0: every GATED record is withdrawn, the gate opens, and the count is in the event. -/
theorem test_holdTimerExpiry_withdraw :
    let t := run (limited .withdraw) (.holdTimerExpiry 2)
    t.gates[(2 : Tag)] = ⟨.opened, 50, .withdraw, none⟩
      ∧ t.store.map (·.event) = [.holdExpired 2 .watchBefore .withdraw 2]
      ∧ t.records[(2 : Tag)].map (·.spent) = [false, false] := by decide

theorem test_holdTimerExpiry_pass :
    let t := run (limited .pass) (.holdTimerExpiry 2)
    t.records[(2 : Tag)].map (·.phase) = [.ready, .ready]
      ∧ t.store.map (·.event) = [.holdExpired 2 .watchBefore .pass 0] := by decide

/-! ## Events and waits -/

/-- A full store with one stalled record behind it (session 3). -/
def stalledState : State :=
  { tag2 .opened [{ wrec .gated with stalled := true }] with
    store := fullStore
    sequence := 332
    stalls := [⟨.watch ((wrec .gated).transaction 2) ⟨[6], .note, false, none⟩, ⟨2, 0⟩⟩] }

/-- Session 3, step 10: the refill moves the stalled event in, and its record passes. -/
theorem test_eventTake :
    let t := run stalledState .eventTake
    t.store.length = 32 ∧ t.stalls = [] ∧ t.sequence = 333 ∧ t.records[(2 : Tag)].map (·.phase) = [.ready]
      ∧ t.held = .preparing (frame 0x00 [0x01, 0x2C, 0x05, 0x00, 0x00]) := by decide

/-- Session 3, step 4: stored 32, stalled, lost 0 and the next sequence number. -/
theorem test_eventStatus : reply stalledState .eventStatus = frame 0x00 [32, 1, 0, 0x01, 0x4C] := by decide

theorem test_eventDiscard :
    let t := run stalledState .eventDiscard
    t.store.map (·.sequence) = [332] ∧ t.held = .preparing (frame 0x00 [32, 1]) := by decide

/-- Session 3, step 6: the post takes the stalled event as 332, and the record passes. -/
theorem test_waitPost :
    let t := run stalledState (.waitPost 13 0x01 0x04 0x0000)
    t.held = .preparing (frame 0x00 [0x02, 0x01, 0x4C]) ∧ t.records[(2 : Tag)].map (·.phase) = [.ready]
      ∧ t.store.length = 32 ∧ t.waitsComplete.map (·.handle) = [13] ∧ t.attn = true := by decide

/-- R129: no kinds at all. -/
theorem test_waitPost_refused : reply State.reset (.waitPost 1 0x00 0xFF 0) = frame 0x04 [] := by decide

theorem test_waitCancel :
    (run { State.reset with waitsPending := [⟨1, resetSelector⟩, ⟨2, resetSelector⟩] } (.waitCancel 1)).waitsPending
      = [⟨2, resetSelector⟩] := by decide

/-- R138: a COMPLETE wait cannot be cancelled. -/
theorem test_waitCancel_tooLate :
    reply { State.reset with waitsComplete := [⟨1, resetSelector, ⟨3, 0, .targetReset⟩⟩] } (.waitCancel 1)
      = frame 0x0B [] := by decide

/-- Session 1, step 7: handle and event record, and ATTN is no longer asserted. -/
theorem test_waitTake :
    let t := run { State.reset with waitsComplete := [⟨1, resetSelector, ⟨10, 0, .probeDone .done⟩⟩] } .waitTake
    t.waitsComplete = [] ∧ t.attn = false
      ∧ t.held = .preparing (frame 0x00 [0x01, 0x00, 0x0A, 0x06, 0x00, 0x01, 0x00]) := by decide

theorem test_attnSet : reply { State.reset with store := fullStore } (.attnSet 0x02)
    = frame 0x00 [0x02, 0x02, 0x01, 0, 0] := by decide

/-! ## The probe engine -/

theorem test_probeRead : (run State.reset (.probeRead 0x00100050 2)).probe = .queued probe2 := by decide

/-- Session 5, step 4: a probe is refused while SYSRST_N is asserted. -/
theorem test_probeRead_refused : reply { State.reset with sysrst := true } (.probeRead 0 4) = frame 0x05 [] := by
  decide

theorem test_probeWrite :
    (run State.reset (.probeWrite 0x8000 [⟨5, 0x0F⟩])).probe = .queued ⟨.write, 0x8000, 1, [⟨5, 0x0F⟩]⟩ := by decide

/-- R146: a beat without an enabled byte. -/
theorem test_probeWrite_refused : reply State.reset (.probeWrite 0x8000 [⟨5, 0x00⟩]) = frame 0x04 [] := by decide

/-- Session 5, step 3: TARGET-RESET with zero data, here of one beat. -/
theorem test_probeResult :
    let t := run { State.reset with probe := .done ⟨.read, 0x9000, 1, []⟩ .targetReset [0] } .probeResult
    t.probe = .idle ∧ t.held = .preparing (frame 0x00
      [0x00, 0x00, 0x00, 0x90, 0x00, 0x01, 0x03, 0, 0, 0, 0, 0, 0, 0, 0]) := by decide

theorem test_probeCancel :
    let t := run atMemory .probeCancel
    t.probe = .idle ∧ t.slots[(5 : SlotIndex)] = .lingering ∧ t.held = .preparing (frame 0x00 [0x02]) := by decide

/-! ## The service link -/

/-- 10.7: vendor, part, revision and the counts. -/
theorem test_ident : reply State.reset .ident
    = frame 0x00 [0x0A, 0x71, 0x00, 0x60, 0x01, 8, 4, 16, 16, 32, 16, 16] := by decide

/-- R161: fewer than 3 complete bytes; the response BAD-FRAME is READY at once. -/
theorem test_badFrame : (run State.reset (.badFrame [0x01])).held = .ready [0x01, 0x00, 0xC2] := by decide

theorem test_badRequest : (run State.reset (.badRequest [0x99, 0x00, 0x8B])).held = .ready [0x02, 0x00, 0xFD] := by
  decide

/-- R167: a period that ends before the CRC byte leaves the response READY and whole. -/
theorem test_readPeriod_short :
    let t := run { State.reset with held := .ready [0x01, 0x00, 0xC2] } (.readPeriod 3 none)
    t.ldo = [0xFF, 0x01, 0x00] ∧ t.held = .ready [0x01, 0x00, 0xC2] := by decide

/-- R166: NOT-READY bytes, then the response, then 0FFh. -/
theorem test_readPeriod_becomes_ready :
    let t := run { State.reset with held := .preparing [0x01, 0x00, 0xC2] } (.readPeriod 6 (some 1))
    t.ldo = [0xFF, 0xFF, 0x01, 0x00, 0xC2, 0xFF] ∧ t.held = .none := by decide

theorem test_responseReady :
    (run { State.reset with held := .preparing [0x01, 0x00, 0xC2] } .responseReady).held
      = .ready [0x01, 0x00, 0xC2] := by decide

/-! ## The pins below the commands -/

/-- The state after pin changes. -/
def pinned (s : State) (changes : List PinChange) : State :=
  match s.takePins changes with
  | .next t => t
  | _ => s

/-- R157, R158: the bits 0000 0001 are the byte 01h, which makes a request period; a READY response is gone. -/
theorem test_pins_first_byte :
    let s := { State.reset with held := .ready [0x01, 0x00, 0xC2] }
    let t := pinned s [.lcsFall, .lckRise false, .lckFall, .lckRise false, .lckFall, .lckRise false, .lckFall,
      .lckRise false, .lckFall, .lckRise false, .lckFall, .lckRise false, .lckFall, .lckRise false, .lckFall,
      .lckRise true]
    t.requestBuffer = [0x01] ∧ t.requestCount = 1 ∧ t.held = .none := by decide

/-- R157, R161: a correct IDENT frame with 3 bits behind it is taken as its complete bytes. -/
theorem test_pins_ident :
    let t := pinned State.reset (periodPins [0x01, 0x00, 0xC2] [true, false, true])
    t.held = (run State.reset .ident).held ∧ t.requestCount = 3 ∧ t.ldo = [0xFF, 0xFF, 0xFF] := by decide

/-- R157, R166: after the eighth falling edge of a read period LDO shows the top bit of the status, 1 of 80h here,
and after the next falling edge the bit below it; behind the period LDO is undriven. -/
theorem test_pins_ldo :
    let s := { State.reset with held := .ready [0x80, 0x00, 0x00] }
    let t := pinned s (.lcsFall :: bitPins (List.replicate 8 true))
    t.ldoPin = some true ∧ (pinned t (bitPins [true])).ldoPin = some false
      ∧ (pinned t [.lcsRise]).ldoPin = none ∧ (pinned t [.lcsRise]).held = .ready [0x80, 0x00, 0x00] := by decide

/-- R172: LCS_N low at power-on. IDENT is not taken until LCS_N has risen. -/
theorem test_powerOn_lcs_low :
    let s := run (pinned (run State.reset .powerOnBegin) [.lcsFall]) (.powerOn false false)
    run s .ident = s ∧ pinned s (bitPins (List.replicate 8 true)) = s
      ∧ (run (pinned s [.lcsRise]) .ident).requestCount = 3 := by decide

/-- R178: while CLK is stopped an answer is lost and no time passes; then the timer goes on. -/
theorem test_clk_stopped :
    let s := pinned atMemory [.clkStop]
    run s (.answer 2 .ok [1, 2]) = s ∧ step s = .next s
      ∧ (run (pinned s [.clkRun]) (.answer 2 .ok [1, 2])).slots[(2 : SlotIndex)] = .free
      ∧ step (pinned s [.clkRun]) = .next atMemory.tick :=
  ⟨by decide, rfl, by decide, rfl⟩

/-- R178, R161: two bytes that were lost while CLK was stopped leave a frame of one byte, which is refused. -/
theorem test_clk_stopped_in_period :
    let first := bitPins [false, false, false, false, false, false, false, true]
    let t := pinned State.reset ([.lcsFall] ++ first ++ [.clkStop] ++ bitPins (List.replicate 16 false)
      ++ [.lcsRise, .clkRun])
    t.held = .ready [0x01, 0x00, 0xC2] ∧ t.requestCount = 1 ∧ t.period = none := by decide

/-! ## Witnesses: for each statement with hypotheses, a state and operands that meet them -/

theorem witness_StepTakesFrontCommand :
    ({ State.reset with pending := [.grant, .ident] } : State).pending = .grant :: [.ident] := by decide

theorem witness_EmptyQueuePassesTime_off :
    let s := run State.reset .powerOnBegin
    s.pending = [] ∧ s.pins = [] ∧ s.takesEvents = false := by decide

theorem witness_EmptyQueuePassesTime_hold :
    let s := limited .pass
    s.pending = [] ∧ s.pins = [] ∧ s.takesEvents = true ∧ s.gates[(2 : Tag)].timer = some 0
      ∧ (∀ u : Tag, u < 2 → s.gates[u].timer ≠ some 0) := by decide

theorem witness_EmptyQueuePassesTime_slot :
    let s := atMemory.setSlot 15 (.busy .probe .read 2 100 (some 0))
    s.pending = [] ∧ s.pins = [] ∧ s.takesEvents = true ∧ (∀ t : Tag, s.gates[t].timer ≠ some 0)
      ∧ s.slots[(15 : SlotIndex)].isDue = true ∧ (∀ j : SlotIndex, j < 15 → s.slots[j].isDue = false) := by decide

theorem witness_EmptyQueuePassesTime_tick :
    atMemory.pending = [] ∧ atMemory.pins = [] ∧ atMemory.takesEvents = true ∧ (∀ t : Tag, atMemory.gates[t].timer ≠ some 0)
      ∧ (∀ k : SlotIndex, atMemory.slots[k].isDue = false)
      ∧ atMemory.slots[(2 : SlotIndex)] = .busy (.record 2) .read 2 100 (some 100)
      ∧ atMemory.slots[(15 : SlotIndex)].isBusy = false := by decide

/-- A waiting pin change. -/
theorem witness_EmptyQueuePassesTime_pins :
    let s := { State.reset with pins := [.clkStop, .clkRun] }
    s.pending = [] ∧ s.pins = .clkStop :: [.clkRun] := by decide

theorem witness_EveryCommandIsTaken :
    (run State.reset .powerOnBegin).powered = false ∧ Instr.ident ≠ .powerOnBegin
      ∧ (∀ h l : Bool, Instr.ident ≠ .powerOn h l)
      ∧ (pinned State.reset [.clkStop]).clkRunning = false ∧ (pinned State.reset [.lcsFall]).lcsLow = true
      ∧ Instr.ident.requestCode ≠ none := by decide

/-- CLK stopped in a period, with LCS_N still low and risen. -/
theorem witness_EveryCommandIsTaken_clk :
    let s := pinned State.reset [.lcsFall, .clkStop]
    let u := pinned s [.lcsRise]
    s.period ≠ none ∧ s.lcsLow = true ∧ u.period ≠ none ∧ u.powered = true ∧ u.clkRunning = false
      ∧ u.lcsLow = false := by decide

theorem witness_PowerOnValues :
    let s := pinned (run State.reset .powerOnBegin) [.lcsFall]
    s.clkRunning = true ∧ s.lcsLow = true ∧ (run s (.powerOn true true)).lcsLow = true := by decide

theorem witness_ResetMeetsTheLaws :
    atMemory.pending = [] ∧ atMemory.pins = [] ∧ atMemory.clkRunning = true ∧ atMemory.lcsLow = false := by decide

theorem witness_SystemReset :
    atMemory.takesEvents = true ∧ atMemory.sysrst = false ∧ atMemory.probe = .atMemory probe2
      ∧ State.reset.takesEvents = true ∧ State.reset.sysrst = false ∧ State.reset.probe.inFlight = false := by decide

theorem witness_ClearRestoresConfiguration : stalledState.takesPeriods = true := by decide

theorem witness_MalformedAcceptance_read :
    atMemory.takesEvents = true ∧ atMemory.sysrst = false ∧ atMemory.records[(2 : Tag)].length < 4
      ∧ (Instr.acceptance 2 .user 0xFF8 (.read 2)).wellFormed = true
      ∧ transferWellFormed .read 0xFF8 (2#5).toNat [] = false
      ∧ transferWellFormed .read 0x1000 (17#5).toNat [] = false := by decide

/-- Among them the longest list that a lane carries. -/
theorem witness_WellFormed_longest_lists :
    (Instr.acceptance 7 .user 0 (.write (List.replicate 31 ⟨0, 1⟩))).wellFormed = true
      ∧ (List.replicate 16 (0 : Beat)).length ≤ 16 ∧ (List.replicate 17 (⟨0, 1⟩ : WriteBeat)).length ≤ 17 := by decide

theorem witness_MalformedAcceptance_write :
    let s := tag2 .opened [wrec .ready, wrec .ready, wrec .ready]
    let body : RequestBody := .write [⟨1, 0x01⟩, ⟨2, 0x00⟩]
    s.takesEvents = true ∧ s.sysrst = false ∧ s.records[(2 : Tag)].length < 4
      ∧ (Instr.acceptance 2 .user 0x8 body).wellFormed = true
      ∧ transferWellFormed (bodyAccess body) 0x8 (bodyBeats body).toNat (bodyData body) = false := by decide

/-- A request of 16 beats at the end of a block passes an open gate. -/
theorem witness_WellFormedAcceptance_passes :
    let s := State.reset
    let judge := WatchEntry.judgeRequest 7 (s.freshRecord .user 0xF80 (.read 16))
    s.GateLaw ∧ s.StallLaw ∧ s.takesEvents = true ∧ s.sysrst = false ∧ s.records[(7 : Tag)].length < 4
      ∧ (Instr.acceptance 7 .user 0xF80 (.read 16)).wellFormed = true
      ∧ transferWellFormed .read 0xF80 (16#5).toNat [] = true
      ∧ decisionOf s.entries (firedList s.entries judge) = .none
      ∧ s.gates[(7 : Tag)].state.isClosed = false ∧ hasGated s.records[(7 : Tag)] = false :=
  ⟨by decide, by decide, by decide, by decide, by decide, by decide, by decide, by decide, by decide, by decide⟩

theorem witness_WellFormedAcceptance_holds :
    let s := watching .holdBefore .none
    let body : RequestBody := .write [⟨0xEE, 0x80⟩]
    let judge := WatchEntry.judgeRequest 2 (s.freshRecord .user 0xFF8 body)
    s.GateLaw ∧ s.StallLaw ∧ s.takesEvents = true ∧ s.sysrst = false ∧ s.records[(2 : Tag)].length < 4
      ∧ (Instr.acceptance 2 .user 0xFF8 body).wellFormed = true
      ∧ transferWellFormed .write 0xFF8 (bodyBeats body).toNat (bodyData body) = true
      ∧ decisionOf s.entries (firedList s.entries judge) = .holdBefore
      ∧ s.gates[(2 : Tag)].state.isClosed = false ∧ hasGated s.records[(2 : Tag)] = false :=
  ⟨by decide, by decide, by decide, by decide, by decide, by decide, by decide, by decide, by decide, by decide⟩

/-- A refused request whose lossless event finds no place. -/
theorem witness_WellFormedAcceptance_stalls :
    let s := { watching .refuse .lossless with store := fullStore }
    let body : RequestBody := .write [⟨0xEE, 0x01⟩]
    let judge := WatchEntry.judgeRequest 2 (s.freshRecord .user 0x0 body)
    s.GateLaw ∧ s.StallLaw ∧ s.takesEvents = true ∧ s.sysrst = false ∧ s.records[(2 : Tag)].length < 4
      ∧ (Instr.acceptance 2 .user 0x0 body).wellFormed = true
      ∧ transferWellFormed .write 0x0 (bodyBeats body).toNat (bodyData body) = true
      ∧ decisionOf s.entries (firedList s.entries judge) = .refuse
      ∧ reportsLossless s.entries (firedList s.entries judge) = true ∧ 32 ≤ s.store.length
      ∧ s.waitsPending = [] :=
  ⟨by decide, by decide, by decide, by decide, by decide, by decide, by decide, by decide, by decide, by decide,
    by decide⟩

theorem witness_OccurrencesThatCannotHappen :
    let full := tag2 .opened [wrec .ready, wrec .ready, wrec .ready, wrec .ready]
    let s := { State.reset with sysrst := true, slots := Vector.replicate 16 Slot.lingering }
    4 ≤ full.records[(2 : Tag)].length ∧ s.sysrst = true ∧ s.offer = none
      ∧ (∀ k : SlotIndex, s.slots[k] ≠ .free) ∧ (∀ c : Contender, s.contends c = false)
      ∧ (∀ t : Tag, s.gates[t].timer = none) ∧ s.slots[(0 : SlotIndex)] = .lingering ∧ s.held = .none := by decide

theorem witness_DeliveryFreesRecord :
    let s := { tag2 .opened [wrec (.answered ⟨.done, []⟩), rrec .ready] with offer := some 2 }
    s.takesEvents = true ∧ s.offer = some 2
      ∧ s.records[(2 : Tag)] = wrec (.answered ⟨.done, []⟩) :: [rrec .ready]
      ∧ (wrec (.answered ⟨.done, []⟩)).stalled = false ∧ [rrec .ready].length < 4 := by decide

/-- The tag last taken is itself the last of the rotation. -/
theorem witness_ResponseRotation :
    let s := { tag2 .opened [wrec (.answered ⟨.done, []⟩)] with lastTag := 2 }
    s.offer = none ∧ (s.deliverable (s.lastTag + 1 + (7 : Fin 8))).isSome = true
      ∧ (∀ m : Fin 8, m < 7 → s.deliverable (s.lastTag + 1 + m) = none)
      ∧ ({ s with offer := some 2 } : State).offer = some 2
      ∧ State.reset.offer = none ∧ (∀ t : Tag, State.reset.deliverable t = none) := by decide

/-- Entries without a qualifier, with one on WRITE and with one on READ; the range is one byte wide. -/
theorem witness_MatchingByAnEntry :
    let d : Definition := { watched .note .none with base := 0xFFFFFFFF, limit := 0xFFFFFFFF }
    let q : Definition := { d with qualifier := some ⟨0xEE, 0xFF⟩ }
    d.base.toNat ≤ d.limit.toNat ∧ d.qualifier = none
      ∧ q.qualifier = some ⟨0xEE, 0xFF⟩ ∧ q.access = .write
      ∧ ({ q with access := .read } : Definition).access = .read := by decide

/-- Entry 3 LIVE and arming the DORMANT entry 4, entry 5 LIVE with skips left, the others undefined. -/
def chained : Vector WatchEntry 16 :=
  ((State.reset.entries.set 3 (.written { watched .note .lossy with arms := some 4 })).set 4
    (.written { watched .refuse .none with startLive := false })).set 5
      (.written { watched .holdAfter .none with skip := some 0xFFFF })

/-- A judgement by which every LIVE entry matches. -/
def everyLive (e : WatchEntry) : Judgement := if e.state = .live then .hit none else .noMatch

theorem witness_EvaluationOfAnEntry :
    (∀ e : WatchEntry, e.state ≠ .live → everyLive e = .noMatch)
      ∧ firedList chained everyLive = [3] ∧ chained[(3 : WatchIndex)].definition.arms = some 4
      ∧ chained[(4 : WatchIndex)].state = .dormant ∧ everyLive chained[(0 : WatchIndex)] = .noMatch
      ∧ everyLive chained[(5 : WatchIndex)] = .hit none ∧ chained[(5 : WatchIndex)].skips ≠ 0
      ∧ everyLive chained[(3 : WatchIndex)] = .hit none ∧ chained[(3 : WatchIndex)].skips = 0 :=
  ⟨fun e h => by simp [everyLive, h], by decide, by decide, by decide, by decide, by decide, by decide,
    by decide, by decide⟩

/-- A fired data-qualified entry, the lowest one, and a fired list without any. -/
theorem witness_DecisionIsStrongestAction :
    let d : Definition := { watched .holdAfter .lossy with qualifier := some ⟨0, 0⟩ }
    let entries := chained.set 7 (.written d)
    (7 : WatchIndex) ∈ firedList entries everyLive ∧ entries[(7 : WatchIndex)].definition.qualifier ≠ none
      ∧ (∀ j ∈ firedList entries everyLive, entries[j].definition.qualifier ≠ none → 7 ≤ j)
      ∧ (∀ i ∈ firedList chained everyLive, chained[i].definition.qualifier = none) := by decide

theorem witness_WatchWriteReplacesEntry :
    let d : Definition := ⟨0x00200000, 0x002007FF, .read, 0x20, .any, none, some 1, true, none, .holdBefore,
      .lossless, false⟩
    State.reset.takesPeriods = true ∧ definitionOf raw3 = some d ∧ d.permitted 0 = true ∧ d.permitted 15 = true := by
  decide

theorem witness_WatchStateSetsEntry :
    let s := watching .note .none
    s.takesPeriods = true ∧ s.entries[(3 : WatchIndex)].undefined = false ∧ 4 ≤ (0x04 : Byte).toNat := by decide

/-- A tag without GATED records, a CLOSED gate, and open gates with each kind of head. -/
theorem witness_ConsiderationOfTheHead :
    let s := tag2 .opened [wrec .ready, { wrec .gated with decision := .holdBefore, spent := true }, rrec .gated]
    hasGated State.reset.records[(0 : Tag)] = false
      ∧ (tag2 (.closed .boot) [wrec .gated]).gates[(2 : Tag)].state.isClosed = true
      ∧ (tag2 (.stepping 1) [wrec .ready, wrec .gated]).records[(2 : Tag)] = [wrec .ready] ++ wrec .gated :: []
      ∧ hasGated [wrec .ready] = false ∧ (GateState.stepping 1).isClosed = false
      ∧ ({ wrec .gated with decision := .holdAfter } : TransitRecord).stalled = false
      ∧ s.gates[(2 : Tag)].state = .opened
      ∧ (∀ r ∈ s.records[(2 : Tag)], r.phase = .gated →
          r.stalled = false ∧ r.decision ≠ .holdAfter ∧ (r.decision = .holdBefore → r.spent = true)) := by decide

theorem witness_StepsCountPassages :
    let s := tag2 (.stepping 0xFFFF) [wrec .ready, wrec .gated]
    let u := tag2 (.stepping 1) [wrec .gated, rrec .gated]
    s.gates[(2 : Tag)].state = .stepping 0xFFFF ∧ u.gates[(2 : Tag)].state = .stepping 1
      ∧ (∀ r ∈ s.records[(2 : Tag)] ++ u.records[(2 : Tag)], r.phase = .gated →
          r.stalled = false ∧ r.decision ≠ .holdAfter ∧ (r.decision = .holdBefore → r.spent = true)) := by decide

theorem witness_FreezeAndLimitSetGate : (limited .pass).takesPeriods = true := by decide

/-- A head closed by WATCH-BEFORE, and a fresh HOLD-BEFORE head at another cause. -/
theorem witness_ResumeAndStepRelease :
    let h := { wrec .gated with decision := Decision.holdBefore }
    let s := tag2 (.closed .watchBefore) [wrec .ready, h]
    let u := tag2 (.closed .boot) [h, rrec .gated]
    s.takesPeriods = true ∧ s.gates[(2 : Tag)].state = .closed .watchBefore
      ∧ s.records[(2 : Tag)] = [wrec .ready] ++ h :: [] ∧ hasGated [wrec .ready] = false
      ∧ u.takesPeriods = true ∧ u.gates[(2 : Tag)].state ≠ .closed .watchBefore
      ∧ u.records[(2 : Tag)] = [] ++ h :: [rrec .gated] ∧ h.stalled = false ∧ h.spent = false
      ∧ (0xFFFF : BitVec 16) ≠ 0 ∧ State.reset.gates[(2 : Tag)].state = .opened := by decide

theorem witness_WithdrawAnswersGatedRecords : (limited .withdraw).takesPeriods = true := by decide

/-- The last beat of a held write of 16 beats. -/
theorem witness_PatchAndAnswerOfTheHead :
    let h := { wrec .gated with beats := 16, writeData := List.replicate 16 ⟨0, 1⟩ }
    let s := tag2 (.closed .watchBefore) [rrec .ready, h]
    s.takesPeriods = true ∧ s.gates[(2 : Tag)].state = .closed .watchBefore
      ∧ s.records[(2 : Tag)] = [rrec .ready] ++ h :: [] ∧ hasGated [rrec .ready] = false
      ∧ h.access = .write ∧ (0x0F : Byte).toNat < h.beats.toNat ∧ (0x80 : Byte) ≠ 0
      ∧ (rrec .gated).access = .read := by decide

theorem witness_HoldTimerExpiry :
    let h := { wrec .gated with decision := Decision.holdBefore }
    let s := limited .pass
    s.takesEvents = true ∧ s.gates[(2 : Tag)].timer = some 0 ∧ s.gates[(2 : Tag)].state = .closed .watchBefore
      ∧ s.gates[(2 : Tag)].policy = .pass ∧ s.records[(2 : Tag)] = [] ++ h :: [rrec .gated]
      ∧ h.stalled = false ∧ ({ h with stalled := true } : TransitRecord).stalled = true
      ∧ (limited .withdraw).gates[(2 : Tag)].policy = .withdraw := by decide

/-- A grant to a tag at the end of the search, with slot 15 alone FREE. -/
theorem witness_GrantFollowsRotation_tag :
    let s := { tag2 .opened [rrec .gated, wrec .ready] with
      arbiter := 2, slots := (Vector.replicate 16 Slot.lingering).set 15 .free }
    s.takesEvents = true ∧ s.slots[(15 : SlotIndex)] = .free ∧ (∀ k : SlotIndex, k < 15 → s.slots[k] ≠ .free)
      ∧ s.contends (s.arbiter + 1 + (8 : Fin 9)) = true
      ∧ (∀ m : Fin 9, m < 8 → s.contends (s.arbiter + 1 + m) = false)
      ∧ (s.arbiter + 1 + (8 : Fin 9)).val = (2 : Tag).val
      ∧ s.records[(2 : Tag)] = [rrec .gated] ++ wrec .ready :: [] ∧ (∀ x ∈ [rrec .gated], x.phase ≠ .ready) := by
  decide

theorem witness_GrantFollowsRotation_probe :
    let s := { State.reset with probe := .queued probe2, arbiter := 7 }
    s.takesEvents = true ∧ s.slots[(0 : SlotIndex)] = .free ∧ (∀ k : SlotIndex, k < 0 → s.slots[k] ≠ .free)
      ∧ s.contends (s.arbiter + 1 + (0 : Fin 9)) = true ∧ (s.arbiter + 1 + (0 : Fin 9)).val = 8
      ∧ (∀ m : Fin 9, m < 0 → s.contends (s.arbiter + 1 + m) = false) := by decide

theorem witness_AnswerWithoutEvaluation :
    let s := (tag2 .opened [rrec .gated, wrec (.atMemory 15)]).setSlot 15 (.busy (.record 2) .write 1 0 none)
    s.takesEvents = true ∧ s.slots[(15 : SlotIndex)] = .busy (.record 2) .write 1 0 none
      ∧ s.records[(2 : Tag)] = [rrec .gated] ++ wrec (.atMemory 15) :: []
      ∧ (∀ x ∈ [rrec .gated] ++ [], x.phase ≠ .atMemory 15) ∧ (wrec (.atMemory 15)).access = .write := by decide

theorem witness_AnswerToReadIsEvaluated :
    let s := (tag2 .opened [wrec .gated, rrec (.atMemory 2)]).setSlot 2 (.busy (.record 2) .read 2 100 (some 1))
    s.takesEvents = true ∧ s.slots[(2 : SlotIndex)] = .busy (.record 2) .read 2 100 (some 1)
      ∧ s.records[(2 : Tag)] = [wrec .gated] ++ rrec (.atMemory 2) :: [] ∧ (rrec (.atMemory 2)).stalled = false
      ∧ (∀ x ∈ [wrec .gated] ++ [], x.phase ≠ .atMemory 2 ∧ x.id ≠ (rrec (.atMemory 2)).id) := by decide

theorem witness_AnswerCompletesProbe :
    atMemory.takesEvents = true ∧ atMemory.slots[(5 : SlotIndex)] = .busy .probe .read 2 100 (some 100)
      ∧ atMemory.probe = .atMemory probe2 := by decide

theorem witness_AnswerWithoutOccupant :
    let s := atMemory.setSlot 15 .lingering
    s.takesEvents = true ∧ s.slots[(0 : SlotIndex)] = .free ∧ s.slots[(15 : SlotIndex)] = .lingering := by decide

theorem witness_ResponseExpiryOfRecord :
    atMemory.takesEvents = true ∧ atMemory.slots[(2 : SlotIndex)] = .busy (.record 2) .read 2 100 (some 100)
      ∧ atMemory.records[(2 : Tag)] = [] ++ rrec (.atMemory 2) :: []
      ∧ (∀ x ∈ ([] : List TransitRecord) ++ [], x.phase ≠ .atMemory 2) := by decide

theorem witness_ResponseExpiryOfProbe :
    atMemory.takesEvents = true ∧ atMemory.slots[(5 : SlotIndex)] = .busy .probe .read 2 100 (some 100)
      ∧ atMemory.probe = .atMemory probe2 := by decide

theorem witness_SetResponseLimitReports : atMemory.takesPeriods = true := by decide

/-- A wait that takes the event, a store with one place left, and a full store. -/
theorem witness_EventPlacement :
    let w : PendingWait := ⟨1, ⟨0x01, 0x00, 0x0000⟩⟩
    let v : PendingWait := ⟨2, resetSelector⟩
    let s := { State.reset with waitsPending := [w, v], store := fullStore.drop 1 }
    s.waitsPending = [w] ++ v :: [] ∧ (∀ x ∈ [w], x.selector.accepts .targetReset = false)
      ∧ v.selector.accepts .targetReset = true
      ∧ (∀ x ∈ s.waitsPending, x.selector.accepts (.noAnswer ⟨0, .user, .read, 0, 1, 0⟩) = false)
      ∧ s.store.length < 32 ∧ 32 ≤ fullStore.length := by decide

theorem witness_EventTakeAndDiscard :
    stalledState.takesPeriods = true ∧ stalledState.store = ⟨300, 0, .targetReset⟩ :: fullStore.drop 1
      ∧ stalledState.stalls.length ≤ 32 := by decide

/-- 15 non-free waits; a match in the store, a match in the stall list, and no match. -/
theorem witness_WaitPostTakesOldestMatch :
    let s := { stalledState with waitsPending := (List.range 15).map fun k => ⟨byteOf k, ⟨0x04, 0, 0⟩⟩ }
    let sel : Selector := ⟨0x20, 0x00, 0x0000⟩
    let stall : Selector := ⟨0x01, 0x04, 0x0040⟩
    s.takesPeriods = true ∧ s.handleInUse 15 = false ∧ s.waitsPending.length + s.waitsComplete.length < 16
      ∧ (0x20 : Byte) ≠ 0 ∧ (0x20 : Byte).getLsbD 7 = false
      ∧ s.store = [] ++ ⟨300, 0, .targetReset⟩ :: fullStore.drop 1 ∧ sel.accepts .targetReset = true
      ∧ (∀ x ∈ s.store, stall.accepts x.event = false) ∧ (∀ x ∈ s.stalls, stall.accepts x.event = true)
      ∧ s.stalls.length = 1 ∧ (∀ x ∈ s.stalls, sel.accepts x.event = false)
      ∧ (∀ x ∈ State.reset.store, sel.accepts x.event = false) := by decide

theorem witness_WaitCancelAndTake :
    let w : PendingWait := ⟨1, resetSelector⟩
    let v : PendingWait := ⟨0xFF, resetSelector⟩
    let c : CompleteWait := ⟨3, resetSelector, ⟨0, 0, .targetReset⟩⟩
    let s := { State.reset with waitsPending := [w, v], waitsComplete := [c] }
    s.takesPeriods = true ∧ s.waitsPending = [w] ++ v :: [] ∧ (∀ x ∈ [w], x.handle ≠ 0xFF)
      ∧ s.waitsComplete = c :: [] := by decide

theorem witness_AttentionFollowsConditions :
    State.reset.takesPeriods = true ∧ (0x03 : Byte).toNat < 4 ∧ (0x00 : Byte).toNat < 4 := by decide

theorem witness_ProbeIsQueued :
    let s := { State.reset with probe := .done probe2 .done [0, 0] }
    s.takesPeriods = true ∧ s.sysrst = false ∧ s.probe.inFlight = false
      ∧ transferWellFormed .read 0xFFFFFF80 (0x10 : Byte).toNat [] = true
      ∧ transferWellFormed .write 0xFFFFFFF8 1 [⟨0, 0x80⟩] = true := by decide

theorem witness_ProbeResultAndCancel :
    let s := { State.reset with probe := .done probe2 .done [0, 0] }
    s.takesPeriods = true ∧ s.probe = .done probe2 .done [0, 0] := by decide

/-- Field values out of their lists, and a definition that is not permitted. -/
theorem witness_TableAndGateRefusals_watchWrite :
    (∀ d, definitionOf { raw3 with once := 0x02 } = some d → d.permitted 3 = false)
      ∧ ∀ d, definitionOf { raw3 with tags := 0x00 } = some d → d.permitted 3 = false := by
  have h1 : definitionOf { raw3 with once := 0x02 } = none := by decide
  have h2 : (definitionOf { raw3 with tags := 0x00 }).all (fun d => !d.permitted 3) = true := by decide
  refine ⟨fun d h => ?_, fun d h => ?_⟩
  · rw [h1] at h; cases h
  · rw [h] at h2; simpa using h2

theorem witness_TableAndGateRefusals :
    let h := wrec .gated
    let s := tag2 (.closed .freeze) [rrec .ready, h]
    State.reset.takesPeriods = true ∧ 16 ≤ (0x10 : Byte).toNat ∧ 8 ≤ (0x08 : Byte).toNat ∧ 2 ≤ (0x02 : Byte).toNat
      ∧ State.reset.entries[(15 : WatchIndex)].undefined = true
      ∧ State.reset.gates[(0 : Tag)].state.isClosed = false ∧ hasGated State.reset.records[(0 : Tag)] = false
      ∧ s.takesPeriods = true ∧ s.gates[(2 : Tag)].state.isClosed = true
      ∧ s.records[(2 : Tag)] = [rrec .ready] ++ h :: [] ∧ hasGated [rrec .ready] = false ∧ h.access = .write
      ∧ h.beats.toNat ≤ (0x01 : Byte).toNat ∧ (0x00 : Byte).toNat < h.beats.toNat
      ∧ (rrec .gated).access = .read := by decide

theorem witness_EventWaitAndProbeRefusals :
    let c : CompleteWait := ⟨3, resetSelector, ⟨0, 0, .targetReset⟩⟩
    let s := { State.reset with waitsComplete := List.replicate 16 c, sysrst := true }
    s.takesPeriods = true ∧ s.store = [] ∧ (0x80 : Byte).getLsbD 7 = true ∧ (0x7F : Byte).getLsbD 7 = false
      ∧ s.handleInUse 3 = true ∧ s.handleInUse 4 = false ∧ 16 ≤ s.waitsPending.length + s.waitsComplete.length
      ∧ s.waitsPending = [] ∧ (∃ w ∈ s.waitsComplete, w.handle = 3) ∧ (∀ w ∈ s.waitsComplete, w.handle ≠ 4)
      ∧ State.reset.waitsComplete = [] ∧ 4 ≤ (0x04 : Byte).toNat
      ∧ transferWellFormed .read 0xFFFFFFFF (1 : Byte).toNat [] = false
      ∧ transferWellFormed .write 0 16 (List.replicate 16 ⟨0, 1⟩) = true
      ∧ atMemory.takesPeriods = true ∧ atMemory.probe.inFlight = true ∧ s.probe.inFlight = false ∧ s.sysrst = true
      ∧ s.probe = .idle := by decide

theorem witness_ReadingRequests : atMemory.takesPeriods = true := by decide

/-- A READY response, one that becomes READY after the last byte but one, and none. -/
theorem witness_ReadPeriodSendsResponse :
    let s := { State.reset with held := .ready [0x01, 0x00, 0xC2] }
    let u := { State.reset with held := .preparing [0x01, 0x00, 0xC2] }
    s.takesPeriods = true ∧ s.held = .ready [0x01, 0x00, 0xC2] ∧ 1 + 0 + [0x01, 0x00, 0xC2].length ≤ 4
      ∧ u.takesPeriods = true ∧ u.held = .preparing [0x01, 0x00, 0xC2] ∧ 1 + 2 ≤ 3 ∧ 3 < 1 + 3
      ∧ State.reset.held = .none := by decide

/-- Two bytes, a length byte of 161, one byte too few, a wrong CRC, and frames with a code or a length that is
not permitted. -/
theorem witness_LinkRefusals :
    State.reset.takesPeriods = true ∧ (0x01 : Byte) ≠ 0xFF ∧ [(0x00 : Byte)].length < 2
      ∧ 160 < (0xA1 : Byte).toNat ∧ [(0x01 : Byte), 0xC2].length ≠ (0x01 : Byte).toNat + 2
      ∧ crc8 [0x01, 0x00] ≠ 0xC3
      ∧ ([] : List Byte).length ≤ 160 ∧ lengthPermitted 0x99 [] = false
      ∧ (List.replicate 160 (0 : Byte)).length ≤ 160 ∧ lengthPermitted 0x02 (List.replicate 160 0) = false := by
  decide

theorem witness_CrcOfFrames : (List.replicate 160 (0 : Byte)).length ≤ 160 := by decide

theorem witness_PeriodCarriesItsCommand :
    (Instr.probeWrite 0xFFFFFFFF (List.replicate 17 ⟨0, 0⟩)).wellFormed = true
      ∧ (Instr.heldAnswer 0xFF (List.replicate 16 0)).wellFormed = true
      ∧ (Instr.watchState 0x10 0x04).wellFormed = true ∧ (Instr.badFrame [0x00]).wellFormed = true
      ∧ (Instr.badRequest [0x99, 0x00, 0x8B]).wellFormed = true ∧ (Instr.readPeriod 1 none).wellFormed = true := by
  decide

/-- A state with a full store, a stalled head and a command waiting: every law holds, and a step goes on. -/
theorem witness_StepKeepsLaws :
    let s := { stalledState with pending := [.eventTake] }
    (∃ t, step s = .next t) ∧ s.CapacityLaw ∧ s.HandleLaw ∧ s.SelectorLaw ∧ s.GateLaw ∧ s.StallLaw ∧ s.OfferLaw
      ∧ s.SlotLaw ∧ s.RecordLaw ∧ s.ProbeLaw ∧ s.EntryLaw ∧ s.LinkLaw :=
  ⟨⟨_, rfl⟩, by decide, by decide, by decide, by decide, by decide, by decide, by decide, by decide, by decide, by decide,
    by decide⟩

/-- The same at memory, with a READ and the probe issued. -/
theorem witness_StepKeepsLaws_atMemory :
    let s := { atMemory with pending := [.answer 2 .ok [1, 2]] }
    (∃ t, step s = .next t) ∧ s.SlotLaw ∧ s.StallLaw ∧ s.RecordLaw ∧ s.ProbeLaw :=
  ⟨⟨_, rfl⟩, by decide, by decide, by decide, by decide⟩

/-- An asserted SYSRST_N with a probe request waiting. -/
theorem witness_StepKeepsAssertionLaw :
    let s := { State.reset with sysrst := true, pending := [.probeRead 0 4] }
    (∃ t, step s = .next t) ∧ s.sysrst = true ∧ s.AssertionLaw :=
  ⟨⟨_, rfl⟩, by decide, by decide⟩

/-- A request period in progress behind its first byte, with the next bit waiting. -/
theorem witness_StepKeepsContents_link :
    let s := { pinned State.reset (.lcsFall :: bitPins (byteBits 0x01)) with pins := [.lckRise true] }
    (∃ t, step s = .next t) ∧ s.period ≠ none ∧ s.CapacityLaw ∧ s.ProbeLaw ∧ s.LinkLaw :=
  ⟨⟨_, rfl⟩, by decide, by decide, by decide, by decide⟩

theorem witness_PinsCarryPeriods :
    let s := { State.reset with held := .ready [0x01, 0x00, 0xC2] }
    State.reset.lcsLow = false ∧ s.takesPeriods = true ∧ s.period = none ∧ s.held ≠ .ready []
      ∧ (List.replicate 7 true).length < 8 ∧ ([0xFF] : List Byte) ≠ [] := by decide

end Sys2Proof.Tests
end

section
/-! SUPPORT. What the gate unit does to records, told record by record: a tag's records keep their places, and
each one is moved by one of the changes of chapter 3. -/

namespace Sys2Proof.Machine

/-! ## Lists place by place -/

theorem forall₂_self {α : Type} {R : α → α → Prop} (h : ∀ x, R x x) (l : List α) : List.Forall₂ R l l :=
  List.forall₂_same.2 fun x _ => h x

theorem forall₂_map {α : Type} {R : α → α → Prop} {f : α → α} {l : List α} (h : ∀ x ∈ l, R x (f x)) :
    List.Forall₂ R l (l.map f) :=
  List.forall₂_map_right_iff.2 (List.forall₂_same.2 h)

theorem forall₂_onFirst {α : Type} {R : α → α → Prop} {p : α → Bool} {f : α → α} (refl : ∀ x, R x x)
    {l : List α} (change : ∀ x, l.find? p = some x → R x (f x)) : List.Forall₂ R l (onFirst p f l) := by
  induction l with
  | nil => exact .nil
  | cons x xs ih =>
    simp only [onFirst]
    split
    · next h => exact .cons (change x (by simp [h])) (forall₂_self refl xs)
    · next h => exact .cons (refl x) (ih fun y hy => change y (by simpa [h] using hy))

theorem exists_of_forall₂_mem {α : Type} {R : α → α → Prop} {l m : List α} (h : List.Forall₂ R l m) {y : α}
    (hy : y ∈ m) : ∃ x ∈ l, R x y := by
  induction h with
  | nil => cases hy
  | @cons a b l m hab _ ih =>
    rcases List.mem_cons.1 hy with rfl | hy
    · exact ⟨a, List.mem_cons_self, hab⟩
    · obtain ⟨x, hx, hxy⟩ := ih hy
      exact ⟨x, List.mem_cons_of_mem _ hx, hxy⟩

theorem exists_mem_of_forall₂ {α : Type} {R : α → α → Prop} {l m : List α} (h : List.Forall₂ R l m) {x : α}
    (hx : x ∈ l) : ∃ y ∈ m, R x y :=
  exists_of_forall₂_mem (R := fun y x => R x y) h.flip hx

theorem map_eq_of_forall₂ {α β : Type} {R : α → α → Prop} {f : α → β} {l m : List α}
    (h : List.Forall₂ R l m) (hf : ∀ x y, R x y → f y = f x) : m.map f = l.map f := by
  induction h with
  | nil => rfl
  | cons hab _ ih => simp only [List.map_cons, ih, hf _ _ hab]

theorem filter_length_eq_of_forall₂ {α : Type} {R : α → α → Prop} {p : α → Bool} {l m : List α}
    (h : List.Forall₂ R l m) (hp : ∀ x y, R x y → p y = p x) : (m.filter p).length = (l.filter p).length := by
  simp only [← List.countP_eq_length_filter]
  induction h with
  | nil => rfl
  | cons hab _ ih => simp only [List.countP_cons, ih, hp _ _ hab]

/-! ## One record -/

/-- What the gate unit can make of one record: nothing; a passage (R53); a spent hold (R56); a patched beat
(R67); and, where `answers` says so, an answer in place of memory (R64, R68, R73). -/
inductive TransitRecord.Moved (answers : Bool) : TransitRecord → TransitRecord → Prop where
  | kept (r : TransitRecord) : Moved answers r r
  | passed {r : TransitRecord} (gated : r.isGated = true) (unstalled : r.stalled = false)
      (hold : r.holdsBefore = false) : Moved answers r { r with phase := .ready }
  | spent {r : TransitRecord} (gated : r.isGated = true) : Moved answers r { r with spent := true }
  | patched {r : TransitRecord} (gated : r.isGated = true) (write : r.access = .write) {w : WriteBeat}
      (enabled : w.enables ≠ 0) (beat : Nat) : Moved answers r (r.patched beat w)
  | answered {r : TransitRecord} (can : answers = true) (gated : r.isGated = true) {code : AnswerCode}
      {values : List Beat} (fits : code = .done ∨ code = .withdrawn ∧ values = []) :
      Moved answers r (r.answeredWith code values)

/-- The part of the state that is the gate unit's, changed by it: records move in their places, and a tag without
records starts no hold timer (R70). -/
structure State.GateWork (answers : Bool) (s t : State) : Prop where
  frame : t = { s with gates := t.gates, records := t.records }
  moved : ∀ u : Tag, List.Forall₂ (TransitRecord.Moved answers) s.records[u] t.records[u]
  timer : ∀ u : Tag, s.records[u] = [] → s.gates[u].timer = none → t.gates[u].timer = none

theorem State.GateWork.setRecords {a : Bool} {s : State} {tag : Tag} {l : List TransitRecord}
    (h : List.Forall₂ (TransitRecord.Moved a) s.records[tag] l) : s.GateWork a (s.setRecords tag l) where
  frame := rfl
  moved u := by
    rw [State.setRecords_get]
    split
    · next hu => subst hu; exact h
    · exact forall₂_self .kept _
  timer _ _ h := h

theorem State.GateWork.setGate {a : Bool} {s : State} {tag : Tag} {g : Gate}
    (h : s.records[tag] = [] → s.gates[tag].timer = none → g.timer = none) : s.GateWork a (s.setGate tag g) where
  frame := rfl
  moved u := forall₂_self .kept _
  timer u hr ht := by
    rw [State.setGate_get]
    split
    · next hu => subst hu; exact h hr ht
    · exact ht

/-- A hold timer does not run where no record is GATED (R70). -/
theorem Gate.settleTimer_false (g : Gate) : (g.settleTimer false).timer = none := by
  simp [Gate.settleTimer_timer]

theorem State.GateWork.settleTimer {a : Bool} (s : State) (tag : Tag) : s.GateWork a (s.settleTimer tag) :=
  .setGate fun hr _ => by rw [hr]; exact Gate.settleTimer_false _

/-- Every change by a run of passages is a passage (R53). -/
theorem forall₂_passRun {a : Bool} (g : GateState) (l : List TransitRecord) :
    List.Forall₂ (TransitRecord.Moved a) l (passRun g l).2 :=
  (passRun_records g l).imp fun _ _ h => by
    rcases h with rfl | ⟨hg, hs, hh, rfl⟩
    · exact .kept _
    · exact .passed hg hs hh

theorem State.GateWork.consider {a : Bool} (s : State) (tag : Tag) : s.GateWork a (s.consider tag) where
  frame := rfl
  moved u := by
    rw [State.consider_records_get]
    split
    · next hu => subst hu; exact forall₂_passRun _ _
    · exact forall₂_self .kept _
  timer u hr ht := by
    rw [State.consider_gates_get]
    split
    · next hu => subst hu; rw [hr]; exact Gate.settleTimer_false _
    · exact ht

theorem headOf_gated {l : List TransitRecord} {r : TransitRecord} (h : headOf l = some r) : r.isGated = true :=
  List.find?_some h

/-- Changing the head of a tag moves that record alone (R9). -/
theorem State.GateWork.onHead {a : Bool} (s : State) (tag : Tag) {f : TransitRecord → TransitRecord}
    (h : ∀ r : TransitRecord, headOf s.records[tag] = some r → TransitRecord.Moved a r (f r)) :
    s.GateWork a (s.setRecords tag (onHead f s.records[tag])) :=
  .setRecords (forall₂_onFirst .kept h)

theorem State.GateWork.spendHold {a : Bool} (s : State) (tag : Tag) : s.GateWork a (s.spendHold tag) :=
  .onHead s tag fun r hr => by split; exacts [.spent (headOf_gated hr), .kept r]

theorem State.GateWork.spendHead {a : Bool} (s : State) (tag : Tag) : s.GateWork a (s.spendHead tag) :=
  .onHead s tag fun _ hr => .spent (headOf_gated hr)

/-- Every GATED record of a tag is answered WITHDRAWN (R64). -/
theorem State.GateWork.withdrawRecords (s : State) (tag : Tag) :
    s.GateWork true (s.setRecords tag (withdrawGated s.records[tag])) :=
  .setRecords (forall₂_map fun r _ => by
    split
    · next hr => exact .answered rfl hr (.inr ⟨rfl, rfl⟩)
    · exact .kept r)

end Sys2Proof.Machine
end

section
/-! SUPPORT. Everything a step can do, said once: a course of primitive changes from the state it begins in, after
which the response channel may choose (R20). Each law of Safety.lean is then kept by a step because every primitive
change keeps it. -/

namespace Sys2Proof.Machine

/-- `t` differs from `s` at most in counters, outputs and settings that no law of Safety.lean speaks of. -/
def State.Alike (s t : State) : Prop :=
  t = { s with
    arrival := t.arrival, lastTag := t.lastTag, lastResponse := t.lastResponse, responseLimit := t.responseLimit
    arbiter := t.arbiter, memoryRequest := t.memoryRequest, lost := t.lost, sequence := t.sequence
    enableCompletions := t.enableCompletions, enableStored := t.enableStored }

theorem State.Alike.trans {s t u : State} (h : s.Alike t) (h' : t.Alike u) : s.Alike u := by
  unfold State.Alike at *
  rw [h', h]

/-- `t` differs from `s` at most in these and in the queues, power, clock and link: the blocks but the service link
stand as they stood. -/
def State.SameBlocks (s t : State) : Prop :=
  t = { s with
    pending := t.pending, pins := t.pins, powered := t.powered, clkRunning := t.clkRunning, arrival := t.arrival
    lastTag := t.lastTag, lastResponse := t.lastResponse, responseLimit := t.responseLimit, arbiter := t.arbiter
    memoryRequest := t.memoryRequest, lost := t.lost, sequence := t.sequence
    enableCompletions := t.enableCompletions, enableStored := t.enableStored, lcsLow := t.lcsLow
    period := t.period, held := t.held, requestBuffer := t.requestBuffer, requestCount := t.requestCount
    ldo := t.ldo }

theorem State.SameBlocks.trans {s t u : State} (h : s.SameBlocks t) (h' : t.SameBlocks u) : s.SameBlocks u := by
  unfold State.SameBlocks at *
  rw [h', h]

theorem State.Alike.sameBlocks {s t : State} (h : s.Alike t) : s.SameBlocks t := by
  unfold State.SameBlocks
  rw [h]

/-- A probe request that passes the tests of R146, with one beat of data per beat of a WRITE and none for a
READ. -/
def ProbeRequest.Sound (q : ProbeRequest) : Prop :=
  transferWellFormed q.access q.address q.beats q.writeData = true
    ∧ q.writeData.length = if q.access = .write then q.beats else 0

/-- A record as an acceptance adds it (R6, R7): its contents and answer are sound, and it is not stalled and has
not passed the gate. -/
structure TransitRecord.Accepted (r : TransitRecord) : Prop where
  content : r.ContentLaw
  answer : r.AnswerLaw
  unstalled : r.stalled = false
  phase : r.isGated = true ∨ r.isAnswered = true

/-- An event may be linked to the record of `tag` marked `id` (R104): a GATED or ANSWERED one that is not
stalled, and that the initiator has not been offered yet. -/
def State.Linkable (s₀ s : State) (tag : Tag) (id : Nat) : Prop :=
  (∃ r ∈ s.records[tag], r.id = id ∧ r.stalled = false ∧ (r.isGated = true ∨ r.isAnswered = true))
    ∧ ∀ r ∈ s₀.records[tag], r.id = id → r.isAnswered = false

/-- A course of primitive changes from `s₀`; the mark `due` says that a response may have become deliverable
since the response channel last chose (R20). -/
inductive State.Course (s₀ : State) : (due : Bool) → State → Prop where
  | start : Course s₀ false s₀
  /-- Nothing that the laws of the blocks speak of changes. -/
  | alike {due s t} (c : Course s₀ due s) (h : s.Alike t) : Course s₀ due t
  /-- The gate unit moves records and changes gates (chapter 3). -/
  | gates {due answers s t} (c : Course s₀ due s) (h : s.GateWork answers t) : Course s₀ (answers || due) t
  /-- The watch table is written, or judges a transaction (chapter 2). -/
  | entries {due s} (c : Course s₀ due s) (v : Vector WatchEntry 16)
      (h : ∀ i : WatchIndex, EntryContentLaw i s.entries[i] → EntryContentLaw i v[i]) :
      Course s₀ due { s with entries := v }
  /-- A lossy event is placed (R105). -/
  | lossy {due s} (c : Course s₀ due s) (e : Event) : Course s₀ due (s.place e none)
  /-- A lossless event is placed (R105). -/
  | lossless {due s} (c : Course s₀ due s) {e : Event} {tag : Tag} {id : Nat} (he : e.tag? = some tag)
      (hr : s.records[tag] ≠ []) (h : s₀.StallLaw → State.Linkable s₀ s tag id) :
      Course s₀ true (s.place e (some ⟨tag, id⟩))
  /-- Stored events are taken and the store is refilled (R110, R112, R115, R130). -/
  | storeTaken {due s} (c : Course s₀ due s) (l : List Delivered) (h : l.length ≤ s.store.length) :
      Course s₀ true ({ s with store := l } : State).refill
  /-- A stalled event is taken and its record unstalled (R116, R131). -/
  | stallTaken {due s} (c : Course s₀ due s) {pre post : List Stalled} {e : Stalled}
      (h : s.stalls = pre ++ e :: post) : Course s₀ true (({ s with stalls := pre ++ post } : State).unstall e.link)
  /-- A new wait becomes PENDING (R132). -/
  | waitPended {due s} (c : Course s₀ due s) (w : PendingWait) (hn : s.handleInUse w.handle = false)
      (hc : s.nonFreeWaits < 16) : Course s₀ due { s with waitsPending := s.waitsPending ++ [w] }
  /-- A new wait is COMPLETE at once (R130, R131). -/
  | waitCompleted {due s} (c : Course s₀ due s) (w : CompleteWait) (hn : s.handleInUse w.handle = false)
      (hc : s.nonFreeWaits < 16) : Course s₀ due { s with waitsComplete := s.waitsComplete ++ [w] }
  /-- Waits are freed (R136, R138). -/
  | waitsFreed {due s} (c : Course s₀ due s) {p : List PendingWait} {q : List CompleteWait}
      (hp : p.Sublist s.waitsPending) (hq : q.Sublist s.waitsComplete) :
      Course s₀ due { s with waitsPending := p, waitsComplete := q }
  /-- A record joins the young end of its tag's list (R4, R9). -/
  | added {due s} (c : Course s₀ due s) {tag : Tag} {r : TransitRecord} (hs : s.sysrst = false)
      (hl : s.records[tag].length < 4) (hi : r.id = s.nextId) (h : r.Accepted) : Course s₀ true (s.addRecord tag r)
  /-- The offered response is taken (R19). -/
  | delivered {due s} (c : Course s₀ due s) {tag : Tag} {r : TransitRecord} {rest : List TransitRecord}
      (hl : s.records[tag] = r :: rest) (ha : r.isAnswered = true) (hs : r.stalled = false) :
      Course s₀ true { s.setRecords tag rest with offer := none }
  /-- A record is issued (R85). -/
  | recordIssued {due s} (c : Course s₀ due s) {k : SlotIndex} (tag : Tag) (hk : s.slots[k] = .free) :
      Course s₀ due (s.grantRecord k tag)
  /-- The probe is issued (R85, R148). -/
  | probeIssued {due s} (c : Course s₀ due s) {k : SlotIndex} (hk : s.slots[k] = .free) :
      Course s₀ due (s.grantProbe k)
  /-- The record that was issued through a slot is answered (R87, R92). -/
  | recordAnswered {due s} (c : Course s₀ due s) {k : SlotIndex} {tag : Tag} {v : Slot} {code : AnswerCode}
      {values : List Beat} (hk : s.slots[k].holdsRecord tag = true) (hv : v.isBusy = false)
      (hc : code = .done ∨ (code = .memoryError ∨ code = .noAnswer) ∧ ∀ x ∈ values, x = 0) :
      Course s₀ true ((s.setSlot k v).answerRecord tag k code values)
  /-- A slot is freed, or lingers, that no record names (R90). -/
  | slotLeft {due s} (c : Course s₀ due s) {k : SlotIndex} {v : Slot} (hv : v.isBusy = false)
      (hk : s.slots[k] = .lingering
        ∨ ∃ tag, s.slots[k].holdsRecord tag = true ∧ ∀ r ∈ s.records[tag], r.inSlot k = false) :
      Course s₀ due (s.setSlot k v)
  /-- The probe's request is answered, or its time runs out (R89, R93). -/
  | probeAnswered {due s} (c : Course s₀ due s) {k : SlotIndex} {v : Slot} {code : ProbeCode} {values : List Beat}
      (hk : s.slots[k].holdsProbe = true) (hv : v.isBusy = false) (hc : code = .done ∨ values = []) :
      Course s₀ due ((s.setSlot k v).finishProbe code values)
  /-- A probe is queued (R147). -/
  | probeQueued {due s} (c : Course s₀ due s) {q : ProbeRequest} (hq : q.Sound) (hp : s.probe.inFlight = false)
      (hs : s.sysrst = false) : Course s₀ due { s with probe := .queued q }
  /-- The probe becomes IDLE from outside the memory port (R152, R153). -/
  | probeIdled {due s} (c : Course s₀ due s) (h : ∀ q, s.probe ≠ .atMemory q) :
      Course s₀ due { s with probe := .idle }
  /-- The probe is cancelled AT-MEMORY and its slot lingers (R96, R153). -/
  | probeWithdrawn {due s} (c : Course s₀ due s) :
      Course s₀ due { s with probe := .idle, slots := lingerProbe s.slots }
  /-- A microsecond passes (R70, R91). -/
  | ticked {due s} (c : Course s₀ due s) : Course s₀ due s.tick
  /-- The configuration is cleared (R171). -/
  | cleared {due s} (c : Course s₀ due s) : Course s₀ true s.clearConfiguration
  /-- SYSRST_N is asserted: the target-related state is discarded and a probe in flight ended (R23, R155). -/
  | asserted {due s} (c : Course s₀ due s) (holdboot : Bool) :
      Course s₀ due ((s.discardTarget holdboot).finishProbe .targetReset [])
  /-- SYSRST_N is released (R175). -/
  | released {due s} (c : Course s₀ due s) : Course s₀ due { s with sysrst := false }

/-- What an occurrence or a request of a block leads to: a course after which no response can have become deliverable, or a course
after which the response channel has chosen (R20). -/
inductive State.Leads (s t : State) : Prop where
  | settled {u : State} (c : s.Course false u) (h : u.Alike t) : Leads s t
  | offered {due : Bool} {u : State} (c : s.Course due u) (h : u.offerNext.Alike t) : Leads s t

namespace State

theorem Course.settled {s t : State} (c : s.Course false t) : s.Leads t := .settled c rfl

theorem Course.offered {s t : State} {due : Bool} (c : s.Course due t) : s.Leads t.offerNext := .offered c rfl

theorem Leads.refl (s : State) : s.Leads s := Course.start.settled

theorem Leads.alike {s t u : State} (h : s.Leads t) (h' : t.Alike u) : s.Leads u := by
  rcases h with ⟨c, h⟩ | ⟨c, h⟩
  · exact .settled c (h.trans h')
  · exact .offered c (h.trans h')

theorem Course.setGate {s₀ s : State} {due : Bool} (c : s₀.Course due s) {tag : Tag} {g : Gate}
    (h : s.gates[tag].timer = none → g.timer = none) : s₀.Course due (s.setGate tag g) :=
  c.gates (answers := false) (.setGate fun _ => h)

/-- A change of a gate's state alone leaves its timer as it is. -/
theorem Course.setGateState {s₀ s : State} {due : Bool} (c : s₀.Course due s) (tag : Tag) (g : GateState) :
    s₀.Course due (s.setGate tag { s.gates[tag] with state := g }) :=
  c.setGate fun h => h

theorem Course.settleTimer {s₀ s : State} {due : Bool} (c : s₀.Course due s) (tag : Tag) :
    s₀.Course due (s.settleTimer tag) :=
  c.gates (answers := false) (.settleTimer s tag)

theorem Course.consider {s₀ s : State} {due : Bool} (c : s₀.Course due s) (tag : Tag) :
    s₀.Course due (s.consider tag) :=
  c.gates (answers := false) (.consider s tag)

end State

/-! ## Requests and ends -/

/-- The reply fits a response frame (R164). -/
def Reply.Fits : Reply → Prop
  | .ok payload => payload.length ≤ 160
  | .refuse _ => True

/-- What a block makes of a request: a course, and a reply that fits its frame while the capacities and the probe
are sound (R163, R164). -/
structure State.Acts (s : State) (r : State × Reply) : Prop where
  leads : s.Leads r.1
  fits : s.CapacityLaw → s.ProbeLaw → r.2.Fits

theorem State.Acts.refused (s : State) (status : Status) : s.Acts (s, .refuse status) :=
  ⟨.refl s, fun _ _ => trivial⟩

theorem State.Leads.acts {s t : State} (h : s.Leads t) {payload : List Byte}
    (hp : s.CapacityLaw → s.ProbeLaw → payload.length ≤ 160) : s.Acts (t, .ok payload) := ⟨h, hp⟩

theorem State.Leads.acts_nil {s t : State} (h : s.Leads t) : s.Acts (t, .ok []) :=
  h.acts fun _ _ => Nat.zero_le _

/-- What a command can end in: the blocks stand as an occurrence or a request leaves them, or at their power-on
values (R177). -/
inductive State.Ends (s t : State) : Prop where
  | led {u : State} (h : s.Leads u) (h' : u.SameBlocks t) : Ends s t
  | poweredOn (holdboot sysrstLow lcsLow : Bool) (waiting : List Instr) (pins : List PinChange)
      (h : (State.powerOn holdboot sysrstLow lcsLow waiting pins).SameBlocks t) : Ends s t

theorem State.Leads.ends {s t : State} (h : s.Leads t) : s.Ends t := .led h rfl

theorem State.SameBlocks.ends {s t : State} (h : s.SameBlocks t) : s.Ends t := .led (.refl s) h

end Sys2Proof.Machine
end

section
/-! SUPPORT. What writes and evaluations of the watch table keep of an entry's contents (R26, R27, R36). -/

namespace Sys2Proof.Machine

theorem entryContentLaw_powerOn (i : WatchIndex) : EntryContentLaw i .powerOn :=
  ⟨fun _ => rfl, nofun, nofun⟩

/-- An entry written with a permitted definition holds it, with an absent latch (R28). -/
theorem entryContentLaw_written {i : WatchIndex} {d : Definition} (h : d.permitted i = true) :
    EntryContentLaw i (.written d) :=
  ⟨nofun, fun _ => h, nofun⟩

/-- A parameter of WATCH-STATE changes a defined entry's state and skips alone (R30, R31). -/
theorem watchStateChange_eq {parameter : Byte} {e e' : WatchEntry} (h : watchStateChange parameter e = some e') :
    e' = { e with state := e'.state, skips := e'.skips } := by
  unfold watchStateChange at h
  split at h <;> cases h <;> rfl

/-- A judgement fits its entry: only a LIVE entry is hit, with a matched beat exactly where it is data-qualified
(R29, R33, R36). -/
def Judgement.Fits (e : WatchEntry) (j : Judgement) : Prop :=
  ∀ m, j = .hit m → e.state = .live ∧ m.isSome = e.definition.qualifier.isSome

theorem WatchEntry.live_of_admits {e : WatchEntry} {tag : Tag} {r : TransitRecord} (h : e.admits tag r = true) :
    e.state = .live := by
  simp only [WatchEntry.admits, Bool.and_eq_true, beq_iff_eq] at h
  exact h.1.1

theorem Judgement.fits_ofBeat {e : WatchEntry} (hl : e.state = .live) (hq : e.definition.qualifier.isSome = true)
    (b : Option MatchedBeat) : (Judgement.ofBeat b).Fits e := by
  intro m hm
  cases b with
  | none => cases hm
  | some b => cases hm; exact ⟨hl, hq.symm⟩

theorem Judgement.fits_noMatch (e : WatchEntry) : Judgement.noMatch.Fits e := nofun

theorem WatchEntry.judgeRequest_fits (tag : Tag) (r : TransitRecord) (e : WatchEntry) :
    (e.judgeRequest tag r).Fits e := by
  unfold WatchEntry.judgeRequest
  split
  · next h =>
    have hl : e.state = .live := by
      simp only [Bool.and_eq_true] at h
      exact e.live_of_admits h.1.1
    split
    · next hq => intro m hm; cases hm; exact ⟨hl, by simp [hq]⟩
    · next q hq =>
      split
      · exact Judgement.fits_ofBeat hl (by simp [hq]) _
      · exact Judgement.fits_noMatch e
  · exact Judgement.fits_noMatch e

theorem WatchEntry.judgeResponse_fits (tag : Tag) (r : TransitRecord) (data : List Beat) (e : WatchEntry) :
    (e.judgeResponse tag r data).Fits e := by
  unfold WatchEntry.judgeResponse
  split
  · next h =>
    have hl : e.state = .live := e.live_of_admits (Bool.and_eq_true _ _ ▸ h).1
    split
    · next q hq => exact Judgement.fits_ofBeat hl (by simp [hq]) _
    · exact Judgement.fits_noMatch e
  · exact Judgement.fits_noMatch e

/-- What its own judgement leaves of an entry: definition and undefined flag, and a latch that fits (R36, R37). -/
theorem WatchEntry.afterJudgement_keeps {i : WatchIndex} {e : WatchEntry} {j : Judgement} (hj : j.Fits e)
    (t : Transaction) (h : EntryContentLaw i e) : EntryContentLaw i (e.afterJudgement t j) := by
  cases j with
  | noMatch => exact h
  | hit m =>
    obtain ⟨hl, hm⟩ := hj m rfl
    obtain ⟨hu, hp, -⟩ := h
    have defined : e.undefined = false := by
      rw [← Bool.not_eq_true]
      intro hun
      rw [hu hun] at hl
      cases hl
    simp only [WatchEntry.afterJudgement]
    split <;> exact ⟨fun h => absurd (defined.symm.trans h) nofun, fun _ => hp defined, by simpa using hm⟩

/-- An evaluation keeps the contents of every entry: an undefined one is neither hit nor armed (R26, R37). -/
theorem entryContentLaw_evaluated {entries : Vector WatchEntry 16} {judge : WatchEntry → Judgement}
    (hj : ∀ e, (judge e).Fits e) (t : Transaction) (i : WatchIndex) (h : EntryContentLaw i entries[i]) :
    EntryContentLaw i (evaluateEntries entries judge t)[i] := by
  rw [evaluateEntries_get]
  split
  · next ha =>
    obtain ⟨hu, hp, hlatch⟩ := h
    have hd : entries[i].state = .dormant := by
      simp only [armedBy, Bool.and_eq_true, beq_iff_eq] at ha
      exact ha.1
    refine ⟨fun hun => ?_, hp, hlatch⟩
    rw [hu hun] at hd
    cases hd
  · exact WatchEntry.afterJudgement_keeps (hj _) t h

end Sys2Proof.Machine
end

section
/-! SUPPORT. What answers make of a record's contents, and the records that acceptances add. -/

namespace Sys2Proof.Machine

/-! ## Answers -/

theorem transferWellFormed_beats {access : Access} {address : Addr} {n : Nat} {data : List WriteBeat}
    (h : transferWellFormed access address n data = true) : 1 ≤ n ∧ n ≤ 16 := by
  simp only [transferWellFormed, Bool.and_eq_true, decide_eq_true_eq] at h
  exact h.1.1.2

/-- Zero values supply zeros (R68, R87). -/
theorem supplied_zeros {n : Nat} {l : List Beat} (h : ∀ x ∈ l, x = 0) : supplied n l = List.replicate n 0 := by
  induction n generalizing l with
  | zero => rfl
  | succ n ih =>
    cases l with
    | nil => exact supplied_nil _
    | cons v vs =>
      obtain ⟨rfl, hvs⟩ := List.forall_mem_cons.1 h
      rw [supplied, ih hvs, List.replicate_succ]

theorem answerData_zeros {access : Access} {n : Nat} {l : List Beat} (h : ∀ x ∈ l, x = 0) :
    answerData access n l = List.replicate (answerData access n l).length 0 := by
  cases access with
  | read => simp only [answerData, supplied_zeros h, List.length_replicate]
  | write => rfl

/-- A well-formed record that was not MALFORMED is answered by the law of R16. -/
theorem TransitRecord.answerLaw_answeredWith {r : TransitRecord} {code : AnswerCode} {values : List Beat}
    (hw : transferWellFormed r.access r.address r.beats.toNat r.writeData = true)
    (hm : r.decision ≠ .malformed) (hc : code ≠ .malformed) (hr : code = .refused ↔ r.decision = .refuse)
    (hz : code = .done ∨ ∀ x ∈ values, x = 0) : (r.answeredWith code values).AnswerLaw := by
  intro a ha
  cases ha
  refine ⟨?_, hz.imp_right answerData_zeros, hr, ⟨fun h => absurd h hc, fun h => absurd h hm⟩⟩
  simp [TransitRecord.answeredWith, transferWellFormed_beats hw]

/-! ## Accepted records -/

theorem decisionOf_ne_malformed (entries : Vector WatchEntry 16) (fired : List WatchIndex) :
    decisionOf entries fired ≠ .malformed := by
  unfold decisionOf
  repeat' split
  all_goals exact nofun

/-- A WRITE brings one beat of data per beat of its count, a READ none (R1). -/
theorem bodyData_length (body : RequestBody) :
    (bodyAccess body = .write → (bodyData body).length = (bodyBeats body).toNat)
      ∧ (bodyAccess body = .read → bodyData body = []) := by
  cases body with
  | read n => exact ⟨nofun, fun _ => rfl⟩
  | write l =>
    refine ⟨fun _ => ?_, nofun⟩
    simp only [bodyData, bodyBeats, List.length_take, BitVec.toNat_ofNat]
    exact Nat.min_eq_left (Nat.mod_le _ _)

/-- A malformed request's record keeps no data and has its answer (R7, R16). -/
theorem TransitRecord.accepted_asMalformed {r : TransitRecord} (hs : r.stalled = false) :
    r.asMalformed.Accepted where
  content := ⟨fun h => absurd rfl h, fun _ h => absurd rfl h, fun _ => rfl, fun _ => rfl, nofun⟩
  answer := by
    intro a ha
    cases ha
    simp only [TransitRecord.asMalformed, answerData_nil]
    refine ⟨?_, .inr ?_, by simp, by simp⟩
    · cases r.access <;> split <;> simp_all
    · cases r.access <;> split <;> simp
  unstalled := hs
  phase := .inr rfl

theorem TransitRecord.judged_refuse (r : TransitRecord) (fired : List WatchIndex) :
    r.judged .refuse fired = { r with decision := .refuse, fired := fired }.answeredWith .refused [] := rfl

theorem TransitRecord.judged_phase {r : TransitRecord} {decision : Decision} (h : decision ≠ .refuse)
    (fired : List WatchIndex) : (r.judged decision fired).phase = .gated := by
  simp [TransitRecord.judged, h]

/-- A well-formed request's record is REFUSED at once or waits GATED (R6). -/
theorem TransitRecord.accepted_judged {s : State} {privilege : Privilege} {address : Addr} {body : RequestBody}
    (hw : transferWellFormed (bodyAccess body) address (bodyBeats body).toNat (bodyData body) = true)
    {decision : Decision} (hd : decision ≠ .malformed) (fired : List WatchIndex) :
    ((s.freshRecord privilege address body).judged decision fired).Accepted := by
  have access := (bodyData_length body).1
  have none_read := (bodyData_length body).2
  by_cases hr : decision = .refuse
  · subst hr
    rw [TransitRecord.judged_refuse]
    exact ⟨⟨fun _ => hw, fun h _ => access h, fun h => none_read (h.resolve_right hd), fun _ => rfl, nofun⟩,
      TransitRecord.answerLaw_answeredWith hw nofun nofun ⟨fun _ => rfl, fun _ => rfl⟩ (.inr nofun), rfl,
      .inr rfl⟩
  · have hp := TransitRecord.judged_phase (r := s.freshRecord privilege address body) hr fired
    refine ⟨⟨fun _ => hw, fun h _ => access h, fun h => none_read (h.resolve_right hd),
      fun h => absurd h (not_or.2 ⟨hd, hr⟩), fun _ h => ?_⟩, fun a ha => ?_, rfl, .inl (by simp [hp])⟩
    · simp [hp] at h
    · simp [TransitRecord.answer?, hp] at ha

end Sys2Proof.Machine
end

section
/-! SUPPORT. The course of every command of the initiator port, the memory port, the gate unit and the resets. -/

namespace Sys2Proof.Machine

/-! ## The initiator port -/

/-- An event that an evaluation may place: none, a lossy or a lossless one (R39, R44). -/
theorem State.Course.event {s₀ s : State} {due : Bool} (c : s₀.Course due s) {e : Event} {tag : Tag} {id : Nat}
    (he : e.tag? = some tag) (hr : s.records[tag] ≠ []) (h : s₀.StallLaw → State.Linkable s₀ s tag id)
    (reported lossless : Bool) : ∃ due', s₀.Course due' (if reported then
      s.place e (if lossless then some ⟨tag, id⟩ else none) else s) := by
  cases reported with
  | false => exact ⟨due, c⟩
  | true =>
    cases lossless with
    | false => exact ⟨due, c.lossy e⟩
    | true => exact ⟨true, c.lossless he hr h⟩

/-- The request-phase evaluation adds the judged record and may place its event (R32, R39). -/
theorem State.judgeRequest_course {s : State} {tag : Tag} {r : TransitRecord} (hs : s.sysrst = false)
    (hl : s.records[tag].length < 4) (hi : r.id = s.nextId)
    (h : ∀ decision fired, decision ≠ .malformed → (r.judged decision fired).Accepted) :
    ∃ due, s.Course due (s.judgeRequest tag r) := by
  have accepted := h _ (firedList s.entries (WatchEntry.judgeRequest tag r))
    (decisionOf_ne_malformed s.entries (firedList s.entries (WatchEntry.judgeRequest tag r)))
  have judged := State.Course.start.entries (evaluateEntries s.entries (WatchEntry.judgeRequest tag r)
    (r.transaction tag)) fun i => entryContentLaw_evaluated (WatchEntry.judgeRequest_fits tag r) _ i
  refine State.Course.event (judged.added (tag := tag) hs hl (by exact hi) accepted) rfl ?_ ?_ _ _
  · simp
  · intro law
    refine ⟨⟨r.judged _ _, by simp, rfl, accepted.unstalled, accepted.phase⟩, fun x hx hxi => ?_⟩
    have := ((law.1 tag).2 x hx).1
    omega

theorem State.accept_leads (tag : Tag) (privilege : Privilege) (address : Addr) (body : RequestBody) (s : State) :
    s.Leads (s.accept tag privilege address body) := by
  unfold State.accept
  split
  · exact .refl s
  · next hn =>
    simp only [Bool.or_eq_true, beq_iff_eq, State.room, Config.recordsPerTag, not_or, Bool.not_eq_true] at hn
    obtain ⟨hs, hl⟩ := hn
    have hl : s.records[tag].length < 4 := by omega
    dsimp only
    split
    · next hw =>
      obtain ⟨due, c⟩ := State.judgeRequest_course (tag := tag) (r := s.freshRecord privilege address body) hs hl rfl
        fun _ fired hd => TransitRecord.accepted_judged hw hd fired
      exact (c.consider tag).offered
    · exact ((State.Course.added .start hs hl rfl (TransitRecord.accepted_asMalformed rfl)).lossy _).offered

/-- A response is deliverable where the tag's oldest record is ANSWERED and not stalled (R19). -/
theorem State.deliverable_isSome {s : State} {tag : Tag} : (s.deliverable tag).isSome = true ↔
    ∃ r rest, s.records[tag] = r :: rest ∧ r.isAnswered = true ∧ r.stalled = false := by
  unfold State.deliverable
  split
  · next h => simp [h]
  · next r rest h =>
    split
    · next a ha => cases hs : r.stalled <;> simp [h, ha, hs]
    · next ha =>
      have hn : r.isAnswered = false := by
        rw [← Bool.not_eq_true, TransitRecord.isAnswered_iff]
        exact fun ⟨a, h⟩ => ha a h
      simp [h, hn, -TransitRecord.isAnswered_iff]

theorem State.deliverResponse_leads (s : State) : s.Leads s.deliverResponse := by
  unfold State.deliverResponse
  split
  · exact .refl s
  · next tag _ =>
    split
    · exact .refl s
    · next response hd =>
      obtain ⟨r, rest, hl, ha, hs⟩ := State.deliverable_isSome.1 (Option.isSome_of_mem hd)
      have c := (State.Course.delivered .start hl ha hs).alike (t := { s.setRecords tag (s.records[tag].drop 1) with
        lastResponse := some response, lastTag := tag, offer := none }) (by simp only [hl]; rfl)
      exact c.offered

/-! ## The memory port -/

theorem State.slots_of_freeSlot {s : State} {k : SlotIndex} (h : s.freeSlot = some k) : s.slots[k] = .free := by
  have hk : s.slots[k].isFree = true := List.find?_some (p := fun j : SlotIndex => s.slots[j].isFree) h
  unfold Slot.isFree at hk
  split at hk
  · assumption
  · cases hk

theorem State.grantNext_leads (s : State) : s.Leads s.grantNext := by
  unfold State.grantNext
  split
  · next slot c hk _ =>
    have moved : s.Course false { s with arbiter := c } := .alike .start rfl
    dsimp only
    split
    · exact (moved.recordIssued _ (State.slots_of_freeSlot hk)).settled
    · exact (moved.probeIssued (State.slots_of_freeSlot hk)).settled
  · exact .refl s

/-- A HOLD-AFTER firing of the response phase closes the gate (R57). -/
theorem State.closeForRead_course {s₀ s : State} {due : Bool} (c : s₀.Course due s) (tag : Tag) :
    ∃ due', s₀.Course due' (s.closeForRead tag) := by
  unfold State.closeForRead
  split
  · exact ⟨_, c⟩
  · exact ⟨_, (c.setGateState tag _).settleTimer tag⟩

@[simp] theorem State.closeForRead_records (s : State) (tag : Tag) : (s.closeForRead tag).records = s.records := by
  unfold State.closeForRead
  split <;> rfl

/-- The response-phase evaluation writes entries, may close the gate, and may place its event (R41 to R44, R57). -/
theorem State.judgeResponse_course {s₀ s : State} {due : Bool} (c : s₀.Course due s) {tag : Tag}
    {r : TransitRecord} (hr : s.records[tag] ≠ []) (h : s₀.StallLaw → State.Linkable s₀ s tag r.id)
    (data : List Beat) : ∃ due', s₀.Course due' (s.judgeResponse tag r data) := by
  have judged := c.entries (evaluateEntries s.entries (WatchEntry.judgeResponse tag r data) (r.transaction tag))
    fun i => entryContentLaw_evaluated (WatchEntry.judgeResponse_fits tag r data) _ i
  simp only [State.judgeResponse]
  by_cases hc : responseAction s.entries (firedList s.entries (WatchEntry.judgeResponse tag r data)) = .holdAfter
  · obtain ⟨_, closed⟩ := State.closeForRead_course judged tag
    simp only [if_pos hc]
    exact closed.event rfl (by simpa using hr) (by simpa [State.Linkable] using h) _ _
  · simp only [if_neg hc]
    exact judged.event rfl hr h _ _

/-- A record that its slot issued is not stalled, and no record of its tag with its mark is ANSWERED (R13). -/
theorem State.linkable_answered {s : State} {tag : Tag} {k : SlotIndex} {r : TransitRecord}
    (hr : r ∈ s.records[tag]) (hk : r.inSlot k = true) (v : Slot) (code : AnswerCode) (values : List Beat)
    (law : s.StallLaw) : State.Linkable s ((s.setSlot k v).answerRecord tag k code values) tag r.id := by
  obtain ⟨hnd, hmem⟩ := law.1 tag
  have hp := TransitRecord.inSlot_iff.1 hk
  refine ⟨⟨r.answeredWith code values, ?_, rfl, ?_, .inr rfl⟩, fun x hx hxi => ?_⟩
  · simp only [State.answerRecord, State.setRecords_get, if_true, State.setSlot_records]
    exact List.mem_map.2 ⟨r, hr, if_pos hk⟩
  · rw [← Bool.not_eq_true]
    intro hs
    have := (hmem r hr).2.1 hs
    simp [hp] at this
  · rw [List.inj_on_of_nodup_map hnd hx hr hxi]
    simp [← Bool.not_eq_true, hp]

/-- An answer to a record frees its slot, answers it, and judges the data of a READ (R87, R88, R41). -/
theorem State.answerForRecord_leads {s : State} {k : SlotIndex} {tag : Tag}
    (hk : s.slots[k].holdsRecord tag = true) (access : Access) (beats : Nat) (code : MemoryCode)
    (data : List Beat) : s.Leads (s.answerForRecord k tag access beats code data) := by
  simp only [State.answerForRecord]
  split
  · next hn =>
    exact (State.Course.slotLeft .start rfl (.inr ⟨tag, hk, fun r hr => by
      simpa using List.find?_eq_none.1 hn r hr⟩)).settled
  · next r hr =>
    have hmem := List.mem_of_find?_eq_some hr
    have hin : r.inSlot k = true := List.find?_some hr
    have fits : memoryAnswerCode code = .done ∨ (memoryAnswerCode code = .memoryError
        ∨ memoryAnswerCode code = .noAnswer)
          ∧ ∀ x ∈ answerData access beats (memoryValues code data), x = 0 := by
      cases code with
      | ok => exact .inl rfl
      | error =>
        refine .inr ⟨.inl rfl, fun x hx => ?_⟩
        rw [answerData_zeros (l := memoryValues .error data) nofun] at hx
        exact List.eq_of_mem_replicate hx
    have c := State.Course.recordAnswered .start hk (v := .free) rfl fits
    split
    · obtain ⟨_, judged⟩ := State.judgeResponse_course c (r := r)
        (by simpa [State.answerRecord] using List.ne_nil_of_mem hmem)
        (State.linkable_answered hmem hin .free _ _) (answerData access beats (memoryValues code data))
      exact judged.offered
    · exact c.offered

theorem State.takeAnswer_leads (k : SlotIndex) (code : MemoryCode) (data : List Beat) (s : State) :
    s.Leads (s.takeAnswer k code data) := by
  unfold State.takeAnswer
  split
  · exact .refl s
  · next hk => exact (State.Course.slotLeft .start rfl (.inl hk)).settled
  · next hk =>
    have fits : memoryProbeCode code = .done ∨ memoryValues code data = [] := by
      cases code with
      | ok => exact .inl rfl
      | error => exact .inr rfl
    exact (State.Course.probeAnswered .start (by rw [hk]; rfl) rfl fits).settled
  · next hk => exact State.answerForRecord_leads (by rw [hk]; exact beq_self_eq_true _) _ _ code data

theorem State.expireResponse_leads (k : SlotIndex) (s : State) : s.Leads (s.expireResponse k) := by
  unfold State.expireResponse
  split
  · next hk => exact (State.Course.probeAnswered .start (by rw [hk]; rfl) rfl (.inr rfl)).settled
  · next tag _ _ _ _ hk =>
    have hk' : s.slots[k].holdsRecord tag = true := by rw [hk]; exact beq_self_eq_true _
    simp only [State.expireRecord]
    split
    · next hn =>
      exact (State.Course.slotLeft .start rfl (.inr ⟨tag, hk', fun r hr => by
        simpa using List.find?_eq_none.1 hn r hr⟩)).settled
    · exact ((State.Course.recordAnswered .start hk' (v := .lingering) rfl
        (.inr ⟨.inr rfl, List.forall_mem_nil _⟩)).lossy _).offered
  · exact .refl s

/-! ## The gate unit -/

theorem State.openGate_course {s₀ s : State} {due : Bool} (c : s₀.Course due s) (tag : Tag) (g : GateState) :
    s₀.Course due (s.openGate tag g) :=
  (c.setGate (g := s.gates[tag].leaveClosed g) fun _ => rfl).consider tag

theorem State.release_course (s : State) (tag : Tag) (g : GateState) : s.Course false (s.release tag g) := by
  unfold State.release
  split
  · exact State.openGate_course (.gates (answers := false) .start (.spendHead s tag)) tag g
  · exact State.openGate_course .start tag g

theorem State.withdraw_course (s : State) (tag : Tag) (g : GateState) : s.Course true (s.withdraw tag g) := by
  rw [State.withdraw_eq]
  exact (State.Course.start.gates (.withdrawRecords s tag)).setGate fun _ => rfl

theorem State.expireHold_leads (tag : Tag) (s : State) : s.Leads (s.expireHold tag) := by
  unfold State.expireHold
  split
  · split
    · exact ((State.openGate_course (.gates (answers := false) .start (.spendHold s tag)) tag .opened).lossy _).settled
    · exact ((State.withdraw_course s tag .opened).lossy _).offered
  · exact .refl s

theorem tagFreezeAct_acts (tag : Tag) (s : State) : s.Acts (tagFreezeAct tag s) :=
  ((State.Course.start.setGateState tag _).settleTimer tag).settled.acts_nil

theorem tagResumeAct_acts (tag : Tag) (s : State) : s.Acts (tagResumeAct tag s) := by
  refine State.Leads.acts_nil ?_
  split
  · exact .refl s
  · exact (s.release_course tag _).settled

theorem tagStepAct_acts (n : BitVec 16) (tag : Tag) (s : State) : s.Acts (tagStepAct n tag s) := by
  unfold tagStepAct
  split
  · exact .refused s _
  · exact (s.release_course tag _).settled.acts_nil

theorem tagWithdrawAct_acts (after : Byte) (tag : Tag) (s : State) : s.Acts (tagWithdrawAct after tag s) := by
  unfold tagWithdrawAct
  split
  · exact .refused s _
  · exact (s.withdraw_course tag _).offered.acts fun _ _ => (by decide : 1 ≤ 160)

theorem tagLimitAct_acts (limit : BitVec 16) (policy : Byte) (tag : Tag) (s : State) :
    s.Acts (tagLimitAct limit policy tag s) := by
  unfold tagLimitAct
  split
  · exact .refused s _
  · exact ((State.Course.start.setGate fun _ => rfl).settleTimer tag).settled.acts_nil

/-- A held head is a GATED record (R66). -/
theorem heldPatchAct_acts (beat : Byte) (w : WriteBeat) (tag : Tag) (s : State) :
    s.Acts (heldPatchAct beat w tag s) := by
  unfold heldPatchAct
  split
  · exact .refused s _
  · next r hr =>
    split
    · exact .refused s _
    · next ha =>
      split
      · exact .refused s _
      · split
        · exact .refused s _
        · next hw =>
          refine State.Leads.acts_nil (State.Course.settled (.gates (answers := false) .start (.onHead s tag fun x hx => ?_)))
          have hh : headOf s.records[tag] = some r := by
            unfold State.heldHead at hr
            split at hr
            · exact hr
            · cases hr
          obtain rfl : r = x := Option.some.inj (hh.symm.trans hx)
          have write : r.access = .write := by
            cases h : r.access with
            | read => exact absurd h ha
            | write => rfl
          exact .patched (headOf_gated hh) write hw _

theorem heldAnswerAct_acts (values : List Beat) (tag : Tag) (s : State) :
    s.Acts (heldAnswerAct values tag s) := by
  unfold heldAnswerAct
  split
  · exact .refused s _
  · have answered := State.Course.start.gates (answers := true) (.onHead s tag fun _ hr =>
      .answered rfl (headOf_gated hr) (values := values) (.inl rfl))
    exact ((answered.setGateState tag _).settleTimer tag).offered.acts_nil

/-! ## The resets -/

theorem State.systemReset_leads (holdboot : Bool) (s : State) : s.Leads (s.systemReset holdboot) := by
  unfold State.systemReset
  split
  · exact .refl s
  · exact ((State.Course.asserted .start holdboot).lossy _).settled

theorem clearAct_acts (s : State) : s.Acts (clearAct s) := by
  have considered : ∀ (tags : List Tag) (t : State), s.Course true t →
      s.Course true (tags.foldl State.consider t) := by
    intro tags
    induction tags with
    | nil => exact fun _ c => c
    | cons tag tags ih => exact fun t c => ih _ (c.consider tag)
  exact (considered allTags _ (.cleared .start)).offered.acts_nil

end Sys2Proof.Machine
end

section
/-! SUPPORT. The sizes of the payloads that requests are answered with (R164; chapter 10). -/

namespace Sys2Proof.Machine

@[simp] theorem u16Bytes_length (v : BitVec 16) : (u16Bytes v).length = 2 := rfl
@[simp] theorem u32Bytes_length (v : BitVec 32) : (u32Bytes v).length = 4 := rfl
@[simp] theorem beatBytes_length (v : Beat) : (beatBytes v).length = 8 := rfl

@[simp] theorem Gate.bytes_length (tag : Tag) (g : Gate) : (g.bytes tag).length = 11 := by
  cases h : g.timer <;> simp [Gate.bytes, h]

@[simp] theorem TransitRecord.bytes_length (r : TransitRecord) : r.bytes.length = 16 := by
  simp [TransitRecord.bytes]

theorem flatMap_length_of_const {α β : Type} {f : α → List β} {n : Nat} (h : ∀ x, (f x).length = n) (l : List α) :
    (l.flatMap f).length = n * l.length := by
  induction l with
  | nil => simp
  | cons x xs ih => simp [ih, h, Nat.mul_succ, Nat.add_comm]

theorem tagReadBytes_length (tag : Tag) (g : Gate) (l : List TransitRecord) : (tagReadBytes tag g l).length = 15 := by
  simp [tagReadBytes]

theorem heldListBytes_length (tag : Tag) (g : Gate) (l : List TransitRecord) :
    (heldListBytes tag g l).length = 12 + 16 * l.length := by
  simp [heldListBytes, flatMap_length_of_const TransitRecord.bytes_length]
  omega

theorem Definition.bytes_length_le (d : Definition) : d.bytes.length ≤ 35 := by
  cases hq : d.qualifier <;> cases hs : d.skip <;> cases ha : d.arms <;> simp [Definition.bytes, hq, hs, ha]

theorem latchBytes_length_le (l : Option Latch) : (latchBytes l).length ≤ 20 := by
  cases l with
  | none => simp [latchBytes]
  | some l => cases h : l.matched <;> simp [latchBytes, h]

theorem WatchEntry.bytes_length_le (index : WatchIndex) (e : WatchEntry) : (e.bytes index).length ≤ 62 := by
  have hd := e.definition.bytes_length_le
  have hl := latchBytes_length_le e.latch
  simp [WatchEntry.bytes]
  omega

@[simp] theorem Transaction.bytes_length (t : Transaction) : t.bytes.length = 10 := by
  simp [Transaction.bytes]

theorem Firing.bytes_length_le (f : Firing) : f.bytes.length ≤ 14 := by
  cases h : f.matched <;> simp [Firing.bytes, h]

theorem Event.body_length_le (e : Event) : e.body.length ≤ 24 := by
  cases e with
  | watch t f | watchRead t f =>
    have := f.bytes_length_le
    simp [Event.body]
    omega
  | holdExpired | noAnswer | malformed | targetReset | probeDone => simp [Event.body]

theorem Delivered.bytes_length_le (d : Delivered) : d.bytes.length ≤ 29 := by
  have := d.event.body_length_le
  simp [Delivered.bytes]
  omega

theorem probeResultBytes_length_le {q : ProbeRequest} {code : ProbeCode} {data : List Beat}
    (h : data.length ≤ 16) : (probeResultBytes q code data).length ≤ 135 := by
  cases ha : q.access with
  | read => simp [probeResultBytes, ha, flatMap_length_of_const beatBytes_length]; omega
  | write => simp [probeResultBytes, ha]

end Sys2Proof.Machine
end

section
/-! SUPPORT. What every request of the watch table, the event unit, the wait table and the probe engine makes of the
state; then every command, every pin change and every step. -/

namespace Sys2Proof.Machine

/-! ## The watch table -/

/-- A write of one entry that keeps its contents sound. -/
theorem State.setEntry_leads (s : State) {index : WatchIndex} {e : WatchEntry}
    (h : EntryContentLaw index s.entries[index] → EntryContentLaw index e) : s.Leads (s.setEntry index e) :=
  (State.Course.start.entries (s.entries.set index e) fun i law => by
    change EntryContentLaw i (s.setEntry index e).entries[i]
    rw [State.setEntry_get]
    split
    · next hi => subst hi; exact h law
    · exact law).settled

theorem watchWriteAct_acts (raw : RawDefinition) (index : WatchIndex) (s : State) :
    s.Acts (watchWriteAct raw index s) := by
  unfold watchWriteAct
  split
  · exact .refused s _
  · split
    · next hp => exact (s.setEntry_leads fun _ => entryContentLaw_written hp).acts_nil
    · exact .refused s _

theorem watchStateAct_acts (parameter : Byte) (index : WatchIndex) (s : State) :
    s.Acts (watchStateAct parameter index s) := by
  unfold watchStateAct
  split
  · exact .refused s _
  · next e he =>
    split
    · exact .refused s _
    · next hu =>
      refine (s.setEntry_leads fun ⟨_, hp, hl⟩ => ?_).acts_nil
      rw [watchStateChange_eq he]
      exact ⟨fun h => absurd h hu, hp, hl⟩

/-! ## The event unit -/

theorem eventTakeAct_acts (s : State) : s.Acts (eventTakeAct s) := by
  unfold eventTakeAct
  split
  · exact .refused s _
  · next h => 
    exact (State.Course.start.storeTaken _ (by simp [h])).offered.acts fun _ _ =>
      (Delivered.bytes_length_le _).trans (by decide)

theorem eventDiscardAct_acts (s : State) : s.Acts (eventDiscardAct s) :=
  (State.Course.start.storeTaken [] (Nat.zero_le _)).offered.acts fun _ _ => (by decide : 2 ≤ 160)

/-! ## The wait table -/

theorem State.postWait_acts {s : State} {handle : Byte} (hn : s.handleInUse handle = false)
    (hc : s.nonFreeWaits < 16) (selector : Selector) : s.Acts (s.postWait handle selector) := by
  unfold State.postWait
  split
  · next d rest h =>
    obtain ⟨pre, post, hs, rfl, -, -⟩ := takeFirst_eq_some h
    have completed := State.Course.start.waitCompleted ⟨handle, selector, d⟩ hn hc
    exact (completed.storeTaken (pre ++ post) (by simp [hs])).offered.acts fun _ _ => (by decide : 3 ≤ 160)
  · split
    · next e rest h =>
      obtain ⟨pre, post, hs, rfl, -, -⟩ := takeFirst_eq_some h
      have completed := (State.Course.start.waitCompleted ⟨handle, selector, s.stamp e.event⟩ hn hc).alike
        (t := { s with
          waitsComplete := s.waitsComplete ++ [⟨handle, selector, s.stamp e.event⟩]
          sequence := s.sequence + 1, lost := 0 }) rfl
      exact (completed.stallTaken hs).offered.acts fun _ _ => (by decide : 3 ≤ 160)
    · exact (State.Course.start.waitPended ⟨handle, selector⟩ hn hc).settled.acts fun _ _ => (by decide : 3 ≤ 160)

theorem waitPostAct_acts (handle kinds tags : Byte) (watches : BitVec 16) (s : State) :
    s.Acts (waitPostAct handle kinds tags watches s) := by
  unfold waitPostAct
  split
  · exact .refused s _
  · split
    · exact .refused s _
    · next hn =>
      split
      · exact .refused s _
      · next hc => exact State.postWait_acts (Bool.not_eq_true _ ▸ hn) (Nat.not_le.1 hc) _

theorem waitCancelAct_acts (handle : Byte) (s : State) : s.Acts (waitCancelAct handle s) := by
  unfold waitCancelAct
  split
  · next h =>
    obtain ⟨pre, post, hs, rfl, -, -⟩ := takeFirst_eq_some h
    have hp : (pre ++ post).Sublist s.waitsPending := by
      rw [hs]
      exact (List.sublist_cons_self _ _).append_left pre
    exact (State.Course.start.waitsFreed hp (List.Sublist.refl _)).settled.acts_nil
  · split <;> exact .refused s _

theorem waitTakeAct_acts (s : State) : s.Acts (waitTakeAct s) := by
  unfold waitTakeAct
  split
  · exact .refused s _
  · next w rest h =>
    have freed : rest.Sublist s.waitsComplete := h ▸ List.sublist_cons_self w rest
    refine (State.Course.start.waitsFreed (List.Sublist.refl _) freed).settled.acts fun _ _ => ?_
    exact (Nat.succ_le_succ (Delivered.bytes_length_le _)).trans (by decide)

theorem attnSetAct_acts (conditions : Byte) (s : State) : s.Acts (attnSetAct conditions s) := by
  unfold attnSetAct
  split
  · exact .refused s _
  · exact ⟨(State.Leads.refl s).alike rfl, fun _ _ => (by decide : 5 ≤ 160)⟩

/-! ## The probe engine -/

theorem probeStartAct_acts {q : ProbeRequest}
    (hq : q.writeData.length = if q.access = .write then q.beats else 0) (s : State) :
    s.Acts (probeStartAct q s) := by
  unfold probeStartAct
  split
  · exact .refused s _
  · next hw =>
    split
    · exact .refused s _
    · next hp =>
      split
      · exact .refused s _
      · next hs =>
        simp only [Bool.not_eq_true', Bool.not_eq_false, Bool.not_eq_true] at hw hp hs
        exact (State.Course.start.probeQueued ⟨hw, hq⟩ hp hs).settled.acts_nil

theorem probeResultAct_acts (s : State) : s.Acts (probeResultAct s) := by
  unfold probeResultAct
  split
  · exact .refused s _
  · exact .refused s _
  · exact .refused s _
  · next q code data h =>
    refine (State.Course.start.probeIdled (by simp [h])).settled.acts fun _ law => ?_
    obtain ⟨hw, -, hd⟩ := law q (by rw [h]; rfl)
    have hdata := (hd (code, data) (by rw [h]; rfl)).1
    have hbeats := (transferWellFormed_beats hw).2
    refine (probeResultBytes_length_le ?_).trans (by decide)
    rw [hdata]
    split <;> omega

theorem probeCancelAct_acts (s : State) : s.Acts (probeCancelAct s) := by
  unfold probeCancelAct
  split
  · exact State.Course.start.probeWithdrawn.settled.acts fun _ _ => (by decide : 1 ≤ 160)
  · next h => exact (State.Course.start.probeIdled h).settled.acts fun _ _ => (by decide : 1 ≤ 160)

/-! ## Requests that read -/

theorem identAct_acts (s : State) : s.Acts (s, .ok Config.identPayload) :=
  (State.Leads.refl s).acts fun _ _ => (by decide : 12 ≤ 160)

theorem setResponseLimitAct_acts (limit : BitVec 16) (s : State) : s.Acts (setResponseLimitAct limit s) :=
  ⟨(State.Leads.refl s).alike rfl, fun _ _ => (by decide : 4 ≤ 160)⟩

theorem watchReadAct_acts (index : WatchIndex) (s : State) : s.Acts (watchReadAct index s) :=
  (State.Leads.refl s).acts fun _ _ => (WatchEntry.bytes_length_le _ _).trans (by decide)

theorem tagReadAct_acts (tag : Tag) (s : State) : s.Acts (tagReadAct tag s) :=
  (State.Leads.refl s).acts fun _ _ => (tagReadBytes_length _ _ _).trans_le (by decide)

/-- At most 4 records of 16 bytes each are listed (R2, R66). -/
theorem heldListAct_acts (tag : Tag) (s : State) : s.Acts (heldListAct tag s) :=
  (State.Leads.refl s).acts fun law _ => by
    have := law.1 tag
    rw [heldListBytes_length]
    omega

theorem eventStatusAct_acts (s : State) : s.Acts (eventStatusAct s) :=
  (State.Leads.refl s).acts fun _ _ => (by decide : 5 ≤ 160)

theorem withTag_acts {act : Tag → State → State × Reply} {s : State} (h : ∀ tag, s.Acts (act tag s))
    (tag : Byte) : s.Acts (withTag tag act s) := by
  unfold withTag
  split
  · exact h _
  · exact .refused s _

theorem withEntry_acts {act : WatchIndex → State → State × Reply} {s : State}
    (h : ∀ index, s.Acts (act index s)) (index : Byte) : s.Acts (withEntry index act s) := by
  unfold withEntry
  split
  · exact h _
  · exact .refused s _

/-! ## Time -/

theorem State.passTime_leads (s : State) : s.Leads s.passTime := by
  unfold State.passTime
  split
  · split
    · exact State.expireHold_leads _ s
    · split
      · exact State.expireResponse_leads _ s
      · exact State.Course.start.ticked.settled
  · exact .refl s

/-! ## Commands -/

/-- Everything a command that is not of the link can be: nothing, an occurrence in the blocks, a request that its
block takes, a change of the held response, or power-on. The link takes a request only outside a period of its
own (R157, R163, R165, R177, R178). -/
inductive State.Runs (s : State) : Result → Prop where
  | idle : Runs s (.next s)
  | occurs {t : State} (h : s.Leads t) : Runs s (.next t)
  | requests {r : State × Reply} (hs : s.takesPeriods = true) (h : s.Acts r) (bytes : List Byte) :
      Runs s (.next (r.1.endPeriod bytes (.preparing r.2.frame)))
  | refuses (hs : s.takesPeriods = true) (bytes : List Byte) (status : Status) :
      Runs s (.next (s.endPeriod bytes (.ready (Reply.refuse status).frame)))
  | reads (bytes : Nat) (readyAfter : Option Nat) :
      Runs s (.next { s with ldo := s.held.sent bytes readyAfter, held := s.held.afterRead bytes readyAfter })
  | builds : Runs s (.next { s with held := s.held.built })
  | powersOn (holdboot sysrstLow : Bool) (h : s.clkRunning = true) :
      Runs s (.next (.powerOn holdboot sysrstLow s.lcsLow s.pending s.pins))
  | losesPower : Runs s (.next
      { State.powerOn false false s.lcsLow s.pending s.pins with powered := false, clkRunning := s.clkRunning })

theorem State.whenTakingEvents_runs {s : State} {f : State → State} (h : s.Leads (f s)) :
    s.Runs (s.whenTakingEvents f) := by
  unfold State.whenTakingEvents
  split
  · exact .occurs h
  · exact .idle

theorem State.request_runs {s : State} {act : State → State × Reply} (h : s.Acts (act s)) (bytes : List Byte) :
    s.Runs (s.request bytes act) := by
  unfold State.request State.whenTakingPeriods
  split
  · next hs => exact .requests hs h bytes
  · exact .idle

theorem State.refusePeriod_runs (s : State) (bytes : List Byte) (status : Status) :
    s.Runs (s.refusePeriod bytes status) := by
  unfold State.refusePeriod State.whenTakingPeriods
  split
  · next hs => exact .refuses hs bytes status
  · exact .idle

theorem execReadPeriod_runs (bytes : Nat) (readyAfter : Option Nat) (s : State) :
    s.Runs (execReadPeriod bytes readyAfter s) := by
  unfold execReadPeriod State.whenTakingPeriods
  split
  · unfold State.readPeriod
    split
    · exact .idle
    · exact .reads bytes readyAfter
  · exact .idle

theorem execResponseReady_runs (s : State) : s.Runs (execResponseReady s) := by
  unfold execResponseReady State.whenTakingEvents
  split
  · exact .builds
  · exact .idle

theorem execPowerOn_runs (holdboot sysrstLow : Bool) (s : State) : s.Runs (execPowerOn holdboot sysrstLow s) := by
  unfold execPowerOn
  split
  · next h => exact .powersOn holdboot sysrstLow h
  · exact .idle

/-- What a chip-select period can be taken as: nothing, a refusal by the link, or a command of its own (R158,
R161 to R163). -/
theorem runPeriod_cases (bytes : List Byte) (s : State) :
    runPeriod bytes s = .next s
      ∨ (∃ b status, (status = .badFrame ∨ status = .badRequest) ∧ runPeriod bytes s = s.refusePeriod b status)
      ∨ ∃ i, (∀ b, i ≠ .badFrame b ∧ i ≠ .badRequest b) ∧ runPeriod bytes s = exec i s := by
  unfold runPeriod
  split
  · exact .inl rfl
  · next i _ =>
    obtain ⟨j, hj⟩ : ∃ j, j = i := ⟨i, rfl⟩
    cases i with
    | badFrame b => exact .inr (.inl ⟨b, .badFrame, .inl rfl, rfl⟩)
    | badRequest b => exact .inr (.inl ⟨b, .badRequest, .inr rfl, rfl⟩)
    | acceptance | delivery | grant | answer | responseTimerExpiry | holdTimerExpiry | sysrstAssertion
    | sysrstRelease | powerOn | powerOnBegin | responseReady => exact .inl rfl
    | _ => exact .inr (.inr ⟨j, by rw [hj]; exact fun _ => ⟨nofun, nofun⟩, by rw [hj]; rfl⟩)

theorem exec_runs_of_command {i : Instr} (h : ∀ b, i ≠ .badFrame b ∧ i ≠ .badRequest b) (s : State) :
    s.Runs (exec i s) := by
  cases i with
  | acceptance tag p a body => exact State.whenTakingEvents_runs (State.accept_leads tag p a body s)
  | delivery => exact State.whenTakingEvents_runs s.deliverResponse_leads
  | grant => exact State.whenTakingEvents_runs s.grantNext_leads
  | answer k code data => exact State.whenTakingEvents_runs (State.takeAnswer_leads k code data s)
  | responseTimerExpiry k => exact State.whenTakingEvents_runs (State.expireResponse_leads k s)
  | holdTimerExpiry tag => exact State.whenTakingEvents_runs (State.expireHold_leads tag s)
  | sysrstAssertion hb => exact State.whenTakingEvents_runs (State.systemReset_leads hb s)
  | sysrstRelease =>
    exact State.whenTakingEvents_runs (f := fun s => { s with sysrst := false }) State.Course.start.released.settled
  | powerOn hb low => exact execPowerOn_runs hb low s
  | powerOnBegin => exact .losesPower
  | readPeriod n r => exact execReadPeriod_runs n r s
  | responseReady => exact execResponseReady_runs s
  | badFrame b => exact absurd rfl (h b).1
  | badRequest b => exact absurd rfl (h b).2
  | ident => exact State.request_runs (act := fun s => (s, .ok Config.identPayload)) (identAct_acts s) _
  | clear => exact State.request_runs (clearAct_acts s) _
  | setResponseLimit limit => exact State.request_runs (setResponseLimitAct_acts limit s) _
  | watchWrite index d => exact State.request_runs (withEntry_acts (watchWriteAct_acts d · s) index) _
  | watchRead index => exact State.request_runs (withEntry_acts (watchReadAct_acts · s) index) _
  | disable index => exact State.request_runs (withEntry_acts (watchStateAct_acts 0x00 · s) index) _
  | enableLive index => exact State.request_runs (withEntry_acts (watchStateAct_acts 0x01 · s) index) _
  | enableDormant index => exact State.request_runs (withEntry_acts (watchStateAct_acts 0x02 · s) index) _
  | rearm index => exact State.request_runs (withEntry_acts (watchStateAct_acts 0x03 · s) index) _
  | watchState index parameter =>
    exact State.request_runs (withEntry_acts (watchStateAct_acts parameter · s) index) _
  | tagRead tag => exact State.request_runs (withTag_acts (tagReadAct_acts · s) tag) _
  | tagFreeze tag => exact State.request_runs (withTag_acts (tagFreezeAct_acts · s) tag) _
  | tagResume tag => exact State.request_runs (withTag_acts (tagResumeAct_acts · s) tag) _
  | tagStep tag n => exact State.request_runs (withTag_acts (tagStepAct_acts n · s) tag) _
  | tagWithdraw tag after => exact State.request_runs (withTag_acts (tagWithdrawAct_acts after · s) tag) _
  | tagLimit tag limit policy =>
    exact State.request_runs (withTag_acts (tagLimitAct_acts limit policy · s) tag) _
  | heldList tag => exact State.request_runs (withTag_acts (heldListAct_acts · s) tag) _
  | heldPatch tag beat data enables =>
    exact State.request_runs (withTag_acts (heldPatchAct_acts beat ⟨data, enables⟩ · s) tag) _
  | heldAnswer tag values => exact State.request_runs (withTag_acts (heldAnswerAct_acts values · s) tag) _
  | eventTake => exact State.request_runs (eventTakeAct_acts s) _
  | eventStatus => exact State.request_runs (eventStatusAct_acts s) _
  | eventDiscard => exact State.request_runs (eventDiscardAct_acts s) _
  | waitPost handle kinds tags watches =>
    exact State.request_runs (waitPostAct_acts handle kinds tags watches s) _
  | waitCancel handle => exact State.request_runs (waitCancelAct_acts handle s) _
  | waitTake => exact State.request_runs (waitTakeAct_acts s) _
  | attnSet conditions => exact State.request_runs (attnSetAct_acts conditions s) _
  | probeRead address beats => exact State.request_runs (probeStartAct_acts rfl s) _
  | probeWrite address beats => exact State.request_runs (probeStartAct_acts rfl s) _
  | probeResult => exact State.request_runs (probeResultAct_acts s) _
  | probeCancel => exact State.request_runs (probeCancelAct_acts s) _

theorem runPeriod_runs (bytes : List Byte) (s : State) : s.Runs (runPeriod bytes s) := by
  rcases runPeriod_cases bytes s with h | ⟨b, status, -, h⟩ | ⟨i, hi, h⟩ <;> rw [h]
  · exact .idle
  · exact s.refusePeriod_runs b status
  · exact exec_runs_of_command hi s

/-- Everything a command can do. -/
theorem exec_runs (i : Instr) (s : State) : s.Runs (exec i s) := by
  by_cases h : ∀ b, i ≠ .badFrame b ∧ i ≠ .badRequest b
  · exact exec_runs_of_command h s
  · simp only [not_forall, not_and_or, not_not] at h
    obtain ⟨b, rfl | rfl⟩ := h <;> exact runPeriod_runs b s

/-! ## Steps -/

theorem State.Runs.ends {s t : State} (h : s.Runs (.next t)) : s.Ends t := by
  cases h with
  | idle => exact (State.Leads.refl s).ends
  | occurs h => exact h.ends
  | requests _ h => exact .led h.leads rfl
  | refuses | reads | builds => exact .led (.refl s) rfl
  | powersOn holdboot sysrstLow => exact .poweredOn holdboot sysrstLow s.lcsLow s.pending s.pins rfl
  | losesPower => exact .poweredOn false false s.lcsLow s.pending s.pins rfl

/-- The end of a period runs its command, or touches the link alone (R157, R158, R163). -/
theorem State.periodEnds_ends {s u t : State} (h : s.SameBlocks u) (ht : u.periodEnds = .next t) :
    ∃ s', s.SameBlocks s' ∧ s'.Ends t := by
  unfold State.periodEnds at ht
  split at ht
  · cases ht
    exact ⟨u, h, (State.Leads.refl u).ends⟩
  · split at ht
    · cases ht
      exact ⟨u, h, .led (.refl u) rfl⟩
    · next p _ _ =>
      have idle : u.SameBlocks { u with period := none } := rfl
      exact ⟨_, h.trans idle, (ht ▸ runPeriod_runs p.received { u with period := none }).ends⟩

theorem State.lckRise_sameBlocks (s : State) (ldi : Bool) : s.SameBlocks (s.lckRise ldi) := by
  unfold State.lckRise
  split
  · rfl
  · split
    · rfl
    · rw [State.byteComplete_frame]
      rfl

/-- A pin change touches the link alone, and may end a period whose command then runs (R157, R178). -/
theorem State.takePin_ends {change : PinChange} {s t : State} (h : s.takePin change = .next t) :
    ∃ s', s.SameBlocks s' ∧ s'.Ends t := by
  cases change with
  | lcsFall =>
    simp only [State.takePin] at h
    cases h
    refine ⟨s, rfl, State.SameBlocks.ends ?_⟩
    split
    · rfl
    · split <;> rfl
  | lcsRise =>
    simp only [State.takePin] at h
    split at h
    · split at h
      · exact State.periodEnds_ends (u := { s with lcsLow := false }) rfl h
      · cases h
        exact ⟨s, rfl, State.SameBlocks.ends rfl⟩
    · cases h
      exact ⟨s, rfl, State.SameBlocks.ends rfl⟩
  | lckRise ldi =>
    simp only [State.takePin] at h
    cases h
    refine ⟨s, rfl, State.SameBlocks.ends ?_⟩
    split
    · exact s.lckRise_sameBlocks ldi
    · rfl
  | lckFall =>
    simp only [State.takePin] at h
    cases h
    refine ⟨s, rfl, State.SameBlocks.ends ?_⟩
    split <;> rfl
  | clkStop =>
    cases h
    exact ⟨s, rfl, State.SameBlocks.ends rfl⟩
  | clkRun =>
    simp only [State.takePin] at h
    split at h
    · cases h
      exact ⟨s, rfl, State.SameBlocks.ends rfl⟩
    · exact State.periodEnds_ends (u := { s with clkRunning := true }) rfl h

/-- Everything a step can do to the blocks. -/
theorem step_ends {s t : State} (h : step s = .next t) : ∃ s', s.SameBlocks s' ∧ s'.Ends t := by
  unfold step at h
  split at h
  · unfold State.idle at h
    split at h
    · cases h
      exact ⟨s, rfl, s.passTime_leads.ends⟩
    · next change rest _ =>
      have queued : s.SameBlocks { s with pins := rest } := rfl
      obtain ⟨s', hs, he⟩ := State.takePin_ends h
      exact ⟨s', queued.trans hs, he⟩
  · next c rest _ => exact ⟨{ s with pending := rest }, rfl, (h ▸ exec_runs c { s with pending := rest }).ends⟩

end Sys2Proof.Machine
end

section
/-! SUPPORT. Laws kept along courses: the way from a law of every course to a law of every step, and what the
shared operations write. -/

namespace Sys2Proof.Machine

/-- A property of states that only the blocks are of account to, that the choice of the response channel and every
course keeps, and that holds at power-on, is kept by every step. -/
theorem step_keeps {P : State → Prop} (blocks : ∀ s t : State, s.SameBlocks t → P s → P t)
    (offer : ∀ s : State, P s → P s.offerNext)
    (course : ∀ (s t : State) (due : Bool), s.Course due t → P s → P t)
    (power : ∀ holdboot sysrstLow lcsLow waiting pins, P (State.powerOn holdboot sysrstLow lcsLow waiting pins))
    {s t : State} (h : step s = .next t) (hs : P s) : P t := by
  obtain ⟨s', hb, he⟩ := step_ends h
  have hs' := blocks s s' hb hs
  rcases he with ⟨hl, ht⟩ | ⟨_, _, _, _, _, ht⟩
  · refine blocks _ _ ht ?_
    rcases hl with ⟨c, hu⟩ | ⟨c, hu⟩
    · exact blocks _ _ hu.sameBlocks (course _ _ _ c hs')
    · exact blocks _ _ hu.sameBlocks (offer _ (course _ _ _ c hs'))
  · exact blocks _ _ ht (power _ _ _ _ _)

/-! ## What the shared operations write -/

/-- A lossy placement writes the event unit and the waits alone (R105). -/
theorem State.place_none_frame (s : State) (e : Event) : s.place e none = { s with
    store := (s.place e none).store, lost := (s.place e none).lost, sequence := (s.place e none).sequence
    waitsPending := (s.place e none).waitsPending, waitsComplete := (s.place e none).waitsComplete } := by
  have h := s.place_frame e none
  rw [(s.place_lossy e).1, (s.place_lossy e).2] at h
  exact h

/-- A probe's completion does nothing, or ends the probe in flight and places its event (R151). -/
theorem State.finishProbe_cases (s : State) (code : ProbeCode) (values : List Beat) :
    s.probe.inFlight = false ∧ s.finishProbe code values = s
      ∨ ∃ q, (s.probe = .queued q ∨ s.probe = .atMemory q) ∧ s.finishProbe code values =
          { s with probe := .done q code (answerData q.access q.beats values) }.place (.probeDone code) none := by
  cases h : s.probe with
  | idle => exact .inl ⟨rfl, State.finishProbe_of_not code values (by rw [h]; rfl)⟩
  | queued q => exact .inr ⟨q, .inl rfl, State.finishProbe_eq code values (.inl h)⟩
  | atMemory q => exact .inr ⟨q, .inr rfl, State.finishProbe_eq code values (.inr h)⟩
  | done q c d => exact .inl ⟨rfl, State.finishProbe_of_not code values (by rw [h]; rfl)⟩

/-- A probe's completion writes the probe, the event unit and the waits alone. -/
theorem State.finishProbe_frame (s : State) (code : ProbeCode) (values : List Beat) :
    s.finishProbe code values = { s with
      probe := (s.finishProbe code values).probe, store := (s.finishProbe code values).store
      lost := (s.finishProbe code values).lost, sequence := (s.finishProbe code values).sequence
      waitsPending := (s.finishProbe code values).waitsPending
      waitsComplete := (s.finishProbe code values).waitsComplete } := by
  rcases s.finishProbe_cases code values with ⟨-, h⟩ | ⟨q, -, h⟩
  · rw [h]
  · rw [h, State.place_none_frame]

/-- A grant to a tag issues its oldest READY record, or does nothing where it has none (R85). -/
theorem State.grantRecord_cases (s : State) (k : SlotIndex) (tag : Tag) :
    s.grantRecord k tag = s
      ∨ ∃ r, s.records[tag].find? (·.isReady) = some r ∧ ∃ request, s.grantRecord k tag = { s with
          records := s.records.set tag
            (onFirst (·.isReady) (fun r => { r with phase := .atMemory k }) s.records[tag])
          slots := s.slots.set k
            (.busy (.record tag) r.access r.beats.toNat s.responseLimit (startTimer s.responseLimit))
          memoryRequest := request } := by
  unfold State.grantRecord
  split
  · exact .inl rfl
  · next r h => exact .inr ⟨r, h, _, rfl⟩

/-- A grant to the probe issues it while QUEUED (R85, R148). -/
theorem State.grantProbe_cases (s : State) (k : SlotIndex) :
    s.grantProbe k = s
      ∨ ∃ q, s.probe = .queued q ∧ ∃ request, s.grantProbe k = { s with
          slots := s.slots.set k
            (.busy .probe q.access q.beats s.responseLimit (startTimer s.responseLimit))
          probe := .atMemory q, memoryRequest := request } := by
  unfold State.grantProbe
  split
  · next q h => exact .inr ⟨q, h, _, rfl⟩
  · exact .inl rfl

end Sys2Proof.Machine
end

section
/-! SUPPORT. The capacities and the distinct handles along courses (R2, R109, R115, R125). -/

namespace Sys2Proof.Machine

/-! ## Capacities -/

theorem State.length_markStall (s : State) (l : RecordLink) (b : Bool) (t : Tag) :
    (s.markStall l b).records[t].length = s.records[t].length := by
  rw [State.markStall_records_get]
  split <;> simp

theorem State.length_consider (s : State) (tag t : Tag) :
    (s.consider tag).records[t].length = s.records[t].length := by
  rw [State.consider_records_get]
  split
  · next h => subst h; exact passRun_length _ _
  · rfl

theorem State.length_unstall (s : State) (l : RecordLink) (t : Tag) :
    (s.unstall l).records[t].length = s.records[t].length := by
  rw [State.unstall, State.length_consider, State.length_markStall]

theorem State.length_place (s : State) (e : Event) (l : Option RecordLink) (t : Tag) :
    (s.place e l).records[t].length = s.records[t].length := by
  rcases s.place_records_get e l t with h | ⟨k, -, -, h⟩ <;> rw [h]
  exact List.length_map _

theorem State.CapacityLaw.place {s : State} (law : s.CapacityLaw) (e : Event) (l : Option RecordLink) :
    (s.place e l).CapacityLaw := by
  refine ⟨fun t => (s.length_place e l t).symm ▸ law.1 t, ?_⟩
  obtain ⟨-, hstore, hstalls, hwaits⟩ := law
  rcases s.place_cases e l with ⟨pre, w, post, hw, -, -, h⟩ | ⟨-, ⟨hs, h⟩ | ⟨hs, ⟨k, -, h⟩ | ⟨-, h⟩⟩⟩ <;> rw [h]
  · simp only [hw, List.length_append, List.length_cons, List.length_nil] at hwaits ⊢
    exact ⟨hstore, hstalls, by omega⟩
  · refine ⟨?_, .inl (hstalls.resolve_right (by omega)), hwaits⟩
    simp only [List.length_append, List.length_cons, List.length_nil]
    omega
  · exact ⟨hstore, .inr (Nat.le_antisymm hstore hs), hwaits⟩
  · exact ⟨hstore, hstalls, hwaits⟩

/-- The refill restores the law from a store within its capacity (R115). -/
theorem State.capacityLaw_refill {s : State} (hr : ∀ t : Tag, s.records[t].length ≤ 4) (hs : s.store.length ≤ 32)
    (hw : s.waitsPending.length + s.waitsComplete.length ≤ 16) : s.refill.CapacityLaw := by
  have kept : (∀ t : Tag, s.refill.records[t].length ≤ 4) ∧ s.refill.store.length ≤ 32 := by
    refine State.refill_induction (P := fun u => (∀ t : Tag, u.records[t].length ≤ 4) ∧ u.store.length ≤ 32)
      (fun u e rest ⟨hr, _⟩ _ hs => ⟨fun t => ?_, ?_⟩) ⟨hr, hs⟩
    · rw [State.moveStalled, State.length_unstall]
      exact hr t
    · simpa [State.moveStalled, State.deliverToStore] using hs
  refine ⟨kept.1, kept.2, s.refill_done.imp_right (Nat.le_antisymm kept.2), ?_⟩
  rw [s.refill_frame]
  exact hw

theorem State.CapacityLaw.finishProbe {s : State} (law : s.CapacityLaw) (code : ProbeCode) (values : List Beat) :
    (s.finishProbe code values).CapacityLaw := by
  rcases s.finishProbe_cases code values with ⟨-, h⟩ | ⟨q, -, h⟩ <;> rw [h]
  · exact law
  · exact State.CapacityLaw.place (by exact law) _ _

/-- The law where a tag's list was replaced by one that is no longer. -/
theorem State.CapacityLaw.setRecords {s : State} (law : s.CapacityLaw) {tag : Tag} {l : List TransitRecord}
    (h : l.length ≤ 4) : (s.setRecords tag l).CapacityLaw := by
  refine ⟨fun t => ?_, law.2⟩
  rw [State.setRecords_get]
  split
  · exact h
  · exact law.1 t

theorem onFirst_length {α : Type} (p : α → Bool) (f : α → α) (l : List α) : (onFirst p f l).length = l.length :=
  (forall₂_onFirst (R := fun _ _ => True) (fun _ => trivial) (fun _ _ => trivial)).length_eq.symm

theorem State.capacityLaw_powerOn (holdboot sysrstLow lcsLow : Bool) (waiting : List Instr)
    (pins : List PinChange) : (State.powerOn holdboot sysrstLow lcsLow waiting pins).CapacityLaw :=
  ⟨fun t => by simp [State.powerOn], Nat.zero_le _, .inl rfl, Nat.zero_le _⟩

theorem State.Course.capacityLaw {s₀ s : State} {due : Bool} (c : s₀.Course due s) (law : s₀.CapacityLaw) :
    s.CapacityLaw := by
  induction c with
  | start => exact law
  | alike c h ih => rw [h]; exact ih
  | gates c h ih => exact ⟨fun t => (h.moved t).length_eq ▸ ih.1 t, by rw [h.frame]; exact ih.2⟩
  | lossy c e ih => exact ih.place e none
  | lossless c he hr h ih => exact ih.place _ _
  | storeTaken c l h ih => exact State.capacityLaw_refill ih.1 (h.trans ih.2.1) ih.2.2.2
  | stallTaken c h ih =>
    refine ⟨fun t => (State.length_unstall _ _ t).symm ▸ ih.1 t, ih.2.1, .inr ?_, ih.2.2.2⟩
    exact ih.2.2.1.resolve_left (by simp [h])
  | waitPended c w hn hc ih =>
    refine ⟨ih.1, ih.2.1, ih.2.2.1, ?_⟩
    simp only [State.nonFreeWaits, List.length_append, List.length_cons, List.length_nil] at hc ⊢
    omega
  | waitCompleted c w hn hc ih =>
    refine ⟨ih.1, ih.2.1, ih.2.2.1, ?_⟩
    simp only [State.nonFreeWaits, List.length_append, List.length_cons, List.length_nil] at hc ⊢
    omega
  | waitsFreed c hp hq ih =>
    exact ⟨ih.1, ih.2.1, ih.2.2.1, (Nat.add_le_add hp.length_le hq.length_le).trans ih.2.2.2⟩
  | added c hs hl hi h ih => exact ih.setRecords (by simpa using hl)
  | @delivered _ s c tag r rest hl ha hs ih =>
    have := ih.1 tag
    rw [hl, List.length_cons] at this
    exact ih.setRecords (by omega)
  | recordIssued c tag hk ih =>
    rcases State.grantRecord_cases _ _ tag with h | ⟨r, -, request, h⟩ <;> rw [h]
    · exact ih
    · exact ih.setRecords ((onFirst_length _ _ _).trans_le (ih.1 tag))
  | probeIssued c hk ih =>
    rcases State.grantProbe_cases _ _ with h | ⟨q, -, request, h⟩ <;> rw [h] <;> exact ih
  | recordAnswered c hk hv hc ih => exact State.CapacityLaw.setRecords (by exact ih) (by simpa using ih.1 _)
  | probeAnswered c hk hv hc ih => exact State.CapacityLaw.finishProbe (by exact ih) _ _
  | cleared c ih =>
    exact ⟨fun t => by simpa [State.clearConfiguration] using ih.1 t, Nat.zero_le _, .inl rfl, Nat.zero_le _⟩
  | asserted c holdboot ih =>
    exact State.CapacityLaw.finishProbe (s := State.discardTarget _ holdboot)
      ⟨fun t => by simp [State.discardTarget], ih.2.1, .inl rfl, ih.2.2.2⟩ _ _
  | entries | slotLeft | probeQueued | probeIdled | probeWithdrawn | ticked | released => assumption

/-! ## Handles -/

theorem State.HandleLaw.place {s : State} (law : s.HandleLaw) (e : Event) (l : Option RecordLink) :
    (s.place e l).HandleLaw := by
  rcases s.place_cases e l with ⟨pre, w, post, hw, -, -, h⟩ | ⟨-, ⟨-, h⟩ | ⟨-, ⟨k, -, h⟩ | ⟨-, h⟩⟩⟩ <;> rw [h]
  · unfold State.HandleLaw at law ⊢
    simp only [hw, List.map_append, List.map_cons, List.map_nil, List.append_assoc] at law ⊢
    refine (List.Perm.nodup_iff (.append_left _ ?_)).1 law
    simpa using (List.perm_append_comm (l₁ := [w.handle])
      (l₂ := post.map (·.handle) ++ s.waitsComplete.map (·.handle)))
  · exact law
  · exact law
  · exact law

theorem State.HandleLaw.finishProbe {s : State} (law : s.HandleLaw) (code : ProbeCode) (values : List Beat) :
    (s.finishProbe code values).HandleLaw := by
  rcases s.finishProbe_cases code values with ⟨-, h⟩ | ⟨q, -, h⟩ <;> rw [h]
  · exact law
  · exact State.HandleLaw.place (by exact law) _ _

/-- A handle that no wait holds is new (R125, R129). -/
theorem State.handleInUse_eq_false {s : State} {handle : Byte} : s.handleInUse handle = false ↔
    handle ∉ s.waitsPending.map (·.handle) ++ s.waitsComplete.map (·.handle) := by
  simp [State.handleInUse]

theorem State.Course.handleLaw {s₀ s : State} {due : Bool} (c : s₀.Course due s) (law : s₀.HandleLaw) :
    s.HandleLaw := by
  induction c with
  | start => exact law
  | alike c h ih => rw [h]; exact ih
  | gates c h ih => rw [h.frame]; exact ih
  | lossy c e ih => exact ih.place e none
  | lossless c he hr h ih => exact ih.place _ _
  | storeTaken c l h ih => rw [State.refill_frame]; exact ih
  | waitPended c w hn hc ih =>
    rw [State.handleInUse_eq_false] at hn
    unfold State.HandleLaw
    rw [List.map_append, List.append_assoc]
    exact (List.Perm.nodup_iff List.perm_middle).2 (List.nodup_cons.2 ⟨hn, ih⟩)
  | waitCompleted c w hn hc ih =>
    rw [State.handleInUse_eq_false] at hn
    unfold State.HandleLaw
    rw [List.map_append, ← List.append_assoc]
    exact (List.Perm.nodup_iff (List.perm_append_comm)).2 (List.nodup_cons.2 ⟨hn, ih⟩)
  | waitsFreed c hp hq ih => exact ih.sublist ((hp.map _).append (hq.map _))
  | recordIssued c tag hk ih =>
    rcases State.grantRecord_cases _ _ tag with h | ⟨r, -, request, h⟩ <;> rw [h] <;> exact ih
  | probeIssued c hk ih =>
    rcases State.grantProbe_cases _ _ with h | ⟨q, -, request, h⟩ <;> rw [h] <;> exact ih
  | probeAnswered c hk hv hc ih => exact State.HandleLaw.finishProbe (by exact ih) _ _
  | cleared c ih => exact List.nodup_nil
  | asserted c holdboot ih => exact State.HandleLaw.finishProbe (by exact ih) _ _
  | stallTaken | entries | added | delivered | recordAnswered | slotLeft | probeQueued | probeIdled
  | probeWithdrawn | ticked | released => assumption

/-- Settles O52: a course keeps both laws, and neither speaks of the link or the response channel. -/
theorem stepKeepsCapacityAndHandles : Obligations.StepKeepsCapacityAndHandles := by
  refine fun s t h => ⟨step_keeps (P := State.CapacityLaw) ?_ ?_ (fun _ _ _ c => c.capacityLaw)
      State.capacityLaw_powerOn h,
    step_keeps (P := State.HandleLaw) ?_ ?_ (fun _ _ _ c => c.handleLaw) (fun _ _ _ _ _ => List.nodup_nil) h⟩
  · intro s t h law; rw [h]; exact law
  · intro s law; rw [s.offerNext_frame]; exact law
  · intro s t h law; rw [h]; exact law
  · intro s law; rw [s.offerNext_frame]; exact law

end Sys2Proof.Machine
end

section
/-! SUPPORT. Stall list and stall marks along courses (R13, R17, R104, R113, R114). -/

namespace Sys2Proof.Machine

/-! ## The law by its links -/

/-- The law of stalls told by links: a record is stalled exactly while an entry of the stall list names it. -/
theorem State.stallLaw_iff {s : State} : s.StallLaw ↔
    (∀ t : Tag, (s.records[t].map (·.id)).Nodup ∧ ∀ r ∈ s.records[t], r.id < s.nextId ∧ r.StallPhaseLaw
        ∧ (r.stalled = true ↔ (⟨t, r.id⟩ : RecordLink) ∈ s.stalls.map (·.link)))
      ∧ (s.stalls.map (·.link)).Nodup
      ∧ ∀ e ∈ s.stalls, e.event.tag? = some e.link.tag ∧ ∃ r ∈ s.records[e.link.tag], r.id = e.link.id := by
  constructor
  · rintro ⟨hrecords, hnodup, hentries⟩
    refine ⟨fun t => ⟨(hrecords t).1, fun r hr => ?_⟩, hnodup, fun e he => ?_⟩
    · obtain ⟨hid, hphase, hstalled⟩ := (hrecords t).2 r hr
      refine ⟨hid, hphase, fun h => List.mem_map.2 (hstalled h), fun h => ?_⟩
      obtain ⟨e, he, hl⟩ := List.mem_map.1 h
      obtain ⟨-, x, hx, hxi, hxs⟩ := hentries e he
      simp only [hl] at hx hxi
      rwa [← List.inj_on_of_nodup_map (hrecords t).1 hx hr hxi]
    · obtain ⟨ht, r, hr, hi, -⟩ := hentries e he
      exact ⟨ht, r, hr, hi⟩
  · rintro ⟨hrecords, hnodup, hentries⟩
    refine ⟨fun t => ⟨(hrecords t).1, fun r hr => ?_⟩, hnodup, fun e he => ?_⟩
    · obtain ⟨hid, hphase, hstalled⟩ := (hrecords t).2 r hr
      exact ⟨hid, hphase, fun h => List.mem_map.1 (hstalled.1 h)⟩
    · obtain ⟨ht, r, hr, hi⟩ := hentries e he
      refine ⟨ht, r, hr, hi, ((hrecords _).2 r hr).2.2.2 (List.mem_map.2 ⟨e, he, ?_⟩)⟩
      rw [hi]

/-! ## Records that keep their marks -/

/-- The record keeps its mark and its stall, and stays where a stalled record may stand (R13). -/
def TransitRecord.KeepsStall (r r' : TransitRecord) : Prop :=
  r'.id = r.id ∧ r'.stalled = r.stalled ∧ (r.StallPhaseLaw → r'.StallPhaseLaw)

theorem TransitRecord.Moved.keepsStall {a : Bool} {r r' : TransitRecord} (h : TransitRecord.Moved a r r') :
    r.KeepsStall r' := by
  cases h with
  | kept => exact ⟨rfl, rfl, fun h => h⟩
  | passed _ hs => exact ⟨rfl, rfl, fun _ h => absurd (hs.symm.trans h) nofun⟩
  | spent hg => exact ⟨rfl, rfl, fun _ _ => .inl hg⟩
  | patched hg => exact ⟨rfl, rfl, fun _ _ => .inl hg⟩
  | answered => exact ⟨rfl, rfl, fun _ _ => .inr rfl⟩

theorem State.StallLaw.of_records {s t : State} (law : s.StallLaw) (hs : t.stalls = s.stalls)
    (hn : t.nextId = s.nextId)
    (h : ∀ u : Tag, List.Forall₂ TransitRecord.KeepsStall s.records[u] t.records[u]) : t.StallLaw := by
  rw [State.stallLaw_iff] at law ⊢
  obtain ⟨hrecords, hnodup, hentries⟩ := law
  rw [hs, hn]
  refine ⟨fun u => ⟨?_, fun r' hr' => ?_⟩, hnodup, fun e he => ?_⟩
  · rw [map_eq_of_forall₂ (h u) fun _ _ hr => hr.1]
    exact (hrecords u).1
  · obtain ⟨r, hr, hi, hst, hp⟩ := exists_of_forall₂_mem (h u) hr'
    rw [hi, hst]
    exact ⟨((hrecords u).2 r hr).1, hp ((hrecords u).2 r hr).2.1, ((hrecords u).2 r hr).2.2⟩
  · obtain ⟨ht, r, hr, hi⟩ := hentries e he
    obtain ⟨r', hr', hi', -, -⟩ := exists_mem_of_forall₂ (h e.link.tag) hr
    exact ⟨ht, r', hr', hi'.trans hi⟩

theorem State.StallLaw.gateWork {a : Bool} {s t : State} (law : s.StallLaw) (h : s.GateWork a t) : t.StallLaw :=
  law.of_records (by rw [h.frame]) (by rw [h.frame]) fun u => (h.moved u).imp fun _ _ hr => hr.keepsStall

theorem State.StallLaw.setRecords {s : State} (law : s.StallLaw) {tag : Tag} {l : List TransitRecord}
    (h : List.Forall₂ TransitRecord.KeepsStall s.records[tag] l) : (s.setRecords tag l).StallLaw := by
  refine law.of_records rfl rfl fun u => ?_
  rw [State.setRecords_get]
  split
  · next hu => subst hu; exact h
  · exact forall₂_self (fun r => ⟨rfl, rfl, fun h => h⟩) _

/-! ## Stall marks set and cleared -/

/-- A tag's records after a mark was set or cleared: the linked one has it, and the others stay. -/
theorem State.markStall_records (s : State) (l : RecordLink) (b : Bool) (u : Tag) : (s.markStall l b).records[u] =
    s.records[u].map fun r : TransitRecord => if l = ⟨u, r.id⟩ then { r with stalled := b } else r := by
  rw [State.markStall_records_get]
  split
  · next h =>
    subst h
    refine List.map_congr_left fun r _ => ?_
    have : r.id = l.id ↔ l = ⟨l.tag, r.id⟩ := by cases l; simp [eq_comm]
    simp only [this]
  · next h =>
    refine (List.map_id _).symm.trans (List.map_congr_left fun r _ => ?_)
    rw [if_neg fun hl => h (by rw [hl])]
    rfl

/-- A mark that is set or cleared together with its entry keeps the law (R17, R104, R116). -/
theorem State.StallLaw.markStall {s t : State} (law : s.StallLaw) (hr : t.records = s.records)
    (hn : t.nextId = s.nextId) {l : RecordLink} {b : Bool}
    (hlinks : ∀ k, k ∈ t.stalls.map (·.link) ↔ if k = l then b = true else k ∈ s.stalls.map (·.link))
    (hnodup : (t.stalls.map (·.link)).Nodup)
    (hentries : ∀ e ∈ t.stalls, e.event.tag? = some e.link.tag ∧ ∃ r ∈ s.records[e.link.tag], r.id = e.link.id)
    (hphase : b = true → ∀ r ∈ s.records[l.tag], r.id = l.id → r.isGated = true ∨ r.isAnswered = true) :
    (t.markStall l b).StallLaw := by
  rw [State.stallLaw_iff] at law ⊢
  refine ⟨fun u => ?_, hnodup, fun e he => ?_⟩
  · rw [State.markStall_records, hr]
    refine ⟨?_, fun r' hr' => ?_⟩
    · rw [List.map_map]
      refine (List.map_congr_left fun r _ => ?_) ▸ (law.1 u).1
      simp only [Function.comp]
      split <;> rfl
    · obtain ⟨r, hmem, rfl⟩ := List.mem_map.1 hr'
      obtain ⟨hid, hp, hst⟩ := (law.1 u).2 r hmem
      change _ < t.nextId ∧ _ ∧ (_ ↔ _ ∈ t.stalls.map (·.link))
      rw [hlinks, hn]
      by_cases hl : l = ⟨u, r.id⟩
      · subst hl
        simp only [if_true]
        exact ⟨hid, fun h => hphase h r hmem rfl, trivial⟩
      · simp only [if_neg hl, if_neg (Ne.symm hl)]
        exact ⟨hid, hp, hst⟩
  · obtain ⟨ht, r, hmem, hi⟩ := hentries e he
    rw [State.markStall_records, hr]
    exact ⟨ht, _, List.mem_map_of_mem hmem, by split <;> exact hi⟩

/-- A stalled event joins the young end of the stall list and marks its record (R105, R113). -/
theorem State.StallLaw.stall {s : State} (law : s.StallLaw) {e : Event} {tag : Tag} {id : Nat}
    (he : e.tag? = some tag) (h : ∃ r ∈ s.records[tag], r.id = id ∧ r.stalled = false
      ∧ (r.isGated = true ∨ r.isAnswered = true)) :
    (({ s with stalls := s.stalls ++ [⟨e, ⟨tag, id⟩⟩] } : State).markStall ⟨tag, id⟩ true).StallLaw := by
  obtain ⟨r, hr, rfl, hs, hp⟩ := h
  obtain ⟨hrecords, hnodup, hentries⟩ := State.stallLaw_iff.1 law
  have new : (⟨tag, r.id⟩ : RecordLink) ∉ s.stalls.map (·.link) := by
    rw [← ((hrecords tag).2 r hr).2.2, hs]
    nofun
  refine State.StallLaw.markStall (s := s) (t := { s with stalls := s.stalls ++ [⟨e, ⟨tag, r.id⟩⟩] }) law rfl rfl
    (fun k => ?_) ?_ (fun x hx => ?_) fun _ x hx hi => ?_
  · by_cases hk : k = ⟨tag, r.id⟩ <;> simp [hk]
  · rw [List.map_append]
    exact (List.perm_append_comm.nodup_iff).2 (List.nodup_cons.2 ⟨new, hnodup⟩)
  · rcases List.mem_append.1 hx with hx | hx
    · exact hentries x hx
    · obtain rfl := List.mem_singleton.1 hx
      exact ⟨he, r, hr, rfl⟩
  · rwa [List.inj_on_of_nodup_map (hrecords tag).1 hx hr hi]

/-- An event leaves the stall list and its record is unstalled and considered (R116). -/
theorem State.StallLaw.unstall {s t : State} (law : s.StallLaw) {pre post : List Stalled} {e : Stalled}
    (h : s.stalls = pre ++ e :: post) (ht : t.stalls = pre ++ post) (hr : t.records = s.records)
    (hn : t.nextId = s.nextId) : (t.unstall e.link).StallLaw := by
  obtain ⟨-, hnodup, hentries⟩ := State.stallLaw_iff.1 law
  have sub : (pre ++ post).Sublist s.stalls := h ▸ (List.sublist_cons_self e post).append_left pre
  have gone : e.link ∉ (pre ++ post).map (·.link) := by
    rw [h, List.map_append, List.map_cons, List.perm_middle.nodup_iff, ← List.map_append] at hnodup
    exact (List.nodup_cons.1 hnodup).1
  refine State.StallLaw.gateWork (a := false) (law.markStall (b := false) hr hn (fun k => ?_) ?_ (fun x hx => ?_) nofun)
    (.consider _ _)
  · rw [ht, h]
    by_cases hk : k = e.link
    · subst hk; simpa using gone
    · simp [hk]
  · rw [ht]
    exact hnodup.sublist (sub.map _)
  · rw [ht] at hx
    exact hentries x (sub.subset hx)

theorem State.StallLaw.refill {s : State} (law : s.StallLaw) : s.refill.StallLaw :=
  State.refill_induction (P := State.StallLaw)
    (fun _ _ _ law h _ => law.unstall (pre := []) h rfl rfl rfl) law

theorem State.StallLaw.lossy {s : State} (law : s.StallLaw) (e : Event) : (s.place e none).StallLaw := by
  rw [s.place_none_frame]
  exact law

theorem State.StallLaw.lossless {s : State} (law : s.StallLaw) {e : Event} {tag : Tag} {id : Nat}
    (he : e.tag? = some tag) (h : ∃ r ∈ s.records[tag], r.id = id ∧ r.stalled = false
      ∧ (r.isGated = true ∨ r.isAnswered = true)) : (s.place e (some ⟨tag, id⟩)).StallLaw := by
  rcases s.place_cases e (some ⟨tag, id⟩) with
    ⟨_, _, _, -, -, -, hp⟩ | ⟨-, ⟨-, hp⟩ | ⟨-, ⟨k, hk, hp⟩ | ⟨hn, -⟩⟩⟩
  · rw [hp]; exact law
  · rw [hp]; exact law
  · cases hk
    rw [hp]
    exact law.stall he h
  · cases hn

/-! ## Records that come and go -/

/-- A new record has a mark of its own and no entry (R104). -/
theorem State.StallLaw.addRecord {s : State} (law : s.StallLaw) (tag : Tag) {r : TransitRecord}
    (hi : r.id = s.nextId) (h : r.Accepted) : (s.addRecord tag r).StallLaw := by
  rw [State.stallLaw_iff] at law ⊢
  obtain ⟨hrecords, hnodup, hentries⟩ := law
  have new : ∀ u, (⟨u, r.id⟩ : RecordLink) ∉ s.stalls.map (·.link) := by
    intro u hu
    obtain ⟨e, he, hl⟩ := List.mem_map.1 hu
    obtain ⟨-, x, hx, hxi⟩ := hentries e he
    have := ((hrecords _).2 x hx).1
    rw [hxi, hl, hi] at this
    exact absurd this (Nat.lt_irrefl _)
  have kept : ∀ (u : Tag) (x : TransitRecord), x ∈ s.records[u] → x.id < s.nextId + 1 ∧ x.StallPhaseLaw
      ∧ (x.stalled = true ↔ (⟨u, x.id⟩ : RecordLink) ∈ s.stalls.map (·.link)) := by
    intro u x hx
    obtain ⟨hid, hrest⟩ := (hrecords u).2 x hx
    exact ⟨Nat.lt_succ_of_lt hid, hrest⟩
  refine ⟨fun u => ?_, hnodup, fun e he => ?_⟩
  · change (((s.setRecords tag (s.records[tag] ++ [r])).records[u]).map _).Nodup ∧ ∀ x ∈
      (s.setRecords tag (s.records[tag] ++ [r])).records[u], _
    rw [State.setRecords_get]
    split
    · next hu =>
      subst hu
      refine ⟨?_, fun x hx => ?_⟩
      · rw [List.map_append]
        refine (List.perm_append_comm.nodup_iff).2 (List.nodup_cons.2 ⟨fun hm => ?_, (hrecords tag).1⟩)
        obtain ⟨x, hx, hxi⟩ := List.mem_map.1 hm
        have := ((hrecords tag).2 x hx).1
        dsimp only at hxi
        omega
      · rcases List.mem_append.1 hx with hx | hx
        · exact kept tag x hx
        · obtain rfl := List.mem_singleton.1 hx
          refine ⟨hi ▸ Nat.lt_succ_self _, fun _ => h.phase, ?_⟩
          rw [h.unstalled]
          exact ⟨nofun, fun hl => absurd hl (new tag)⟩
    · exact ⟨(hrecords u).1, kept u⟩
  · obtain ⟨ht, x, hx, hxi⟩ := hentries e he
    refine ⟨ht, x, ?_, hxi⟩
    change x ∈ (s.setRecords tag (s.records[tag] ++ [r])).records[e.link.tag]
    rw [State.setRecords_get]
    split
    · next hu => exact List.mem_append_left _ (by simpa only [hu] using hx)
    · exact hx

/-- A record that is not stalled leaves without an entry (R19). -/
theorem State.StallLaw.dropHead {s : State} (law : s.StallLaw) {tag : Tag} {r : TransitRecord}
    {rest : List TransitRecord} (hl : s.records[tag] = r :: rest) (hs : r.stalled = false) :
    (s.setRecords tag rest).StallLaw := by
  rw [State.stallLaw_iff] at law ⊢
  obtain ⟨hrecords, hnodup, hentries⟩ := law
  have hr := ((hrecords tag).2 r (by rw [hl]; exact List.mem_cons_self)).2.2
  refine ⟨fun u => ?_, hnodup, fun e he => ?_⟩
  · rw [State.setRecords_get]
    split
    · next hu =>
      subst hu
      have htag := hrecords tag
      rw [hl] at htag
      exact ⟨(List.nodup_cons.1 htag.1).2, fun x hx => htag.2 x (List.mem_cons_of_mem _ hx)⟩
    · exact hrecords u
  · obtain ⟨ht, x, hx, hxi⟩ := hentries e he
    refine ⟨ht, x, ?_, hxi⟩
    rw [State.setRecords_get]
    split
    · next hu =>
      subst hu
      rw [hl] at hx
      refine (List.mem_cons.1 hx).resolve_left ?_
      rintro rfl
      have := hr.2 (List.mem_map.2 ⟨e, he, by rw [hxi]⟩)
      simp [hs] at this
    · exact hx

/-- CLEAR ends every stall together with its entry (R25, R123). -/
theorem State.StallLaw.clear {s : State} (law : s.StallLaw) : s.clearConfiguration.StallLaw := by
  rw [State.stallLaw_iff]
  refine ⟨fun t => ?_, List.nodup_nil, nofun⟩
  simp only [State.clearConfiguration, Fin.getElem_fin, Vector.getElem_ofFn, List.map_map]
  refine ⟨(law.1 t).1, fun x hx => ?_⟩
  obtain ⟨r, hr, rfl⟩ := List.mem_map.1 hx
  exact ⟨((law.1 t).2 r hr).1, nofun, nofun, nofun⟩

/-! ## Courses -/

theorem State.StallLaw.finishProbe {s : State} (law : s.StallLaw) (code : ProbeCode) (values : List Beat) :
    (s.finishProbe code values).StallLaw := by
  rw [s.finishProbe_frame]
  exact law

theorem State.stallLaw_of_empty {s : State} (hr : ∀ t : Tag, s.records[t] = []) (hs : s.stalls = []) :
    s.StallLaw := by
  rw [State.stallLaw_iff, hs]
  refine ⟨fun t => ?_, List.nodup_nil, nofun⟩
  rw [hr t]
  exact ⟨List.nodup_nil, nofun⟩

/-- An issued record was READY, so it is not stalled (R13). -/
theorem TransitRecord.keepsStall_issued {r : TransitRecord} (h : r.isReady = true) (k : SlotIndex) :
    r.KeepsStall { r with phase := .atMemory k } := by
  rw [TransitRecord.isReady_iff] at h
  refine ⟨rfl, rfl, fun law hs => ?_⟩
  have := law hs
  simp [h] at this

theorem State.Course.stallLaw {s₀ s : State} {due : Bool} (c : s₀.Course due s) (law : s₀.StallLaw) :
    s.StallLaw := by
  induction c with
  | start => exact law
  | alike c h ih => rw [h]; exact ih
  | gates c h ih => exact ih.gateWork h
  | lossy c e ih => exact ih.lossy e
  | lossless c he hr h ih => exact ih.lossless he (h law).1
  | storeTaken c l h ih => exact State.StallLaw.refill (by exact ih)
  | stallTaken c h ih => exact ih.unstall h rfl rfl rfl
  | added c hs hl hi h ih => exact ih.addRecord _ hi h
  | delivered c hl ha hs ih => exact ih.dropHead hl hs
  | recordIssued c tag hk ih =>
    rcases State.grantRecord_cases _ _ tag with h | ⟨r, -, request, h⟩ <;> rw [h]
    · exact ih
    · exact ih.setRecords (forall₂_onFirst (fun r => ⟨rfl, rfl, fun h => h⟩)
        fun r hr => TransitRecord.keepsStall_issued (List.find?_some hr) _)
  | probeIssued c hk ih =>
    rcases State.grantProbe_cases _ _ with h | ⟨q, -, request, h⟩ <;> rw [h] <;> exact ih
  | recordAnswered c hk hv hc ih =>
    refine State.StallLaw.setRecords (by exact ih) (forall₂_map fun r _ => ?_)
    split
    · exact ⟨rfl, rfl, fun _ _ => .inr rfl⟩
    · exact ⟨rfl, rfl, fun h => h⟩
  | probeAnswered c hk hv hc ih => exact State.StallLaw.finishProbe (by exact ih) _ _
  | cleared c ih => exact ih.clear
  | asserted c holdboot ih =>
    exact State.StallLaw.finishProbe (s := State.discardTarget _ holdboot)
      (State.stallLaw_of_empty (fun t => by simp [State.discardTarget]) rfl) _ _
  | waitPended | waitCompleted | waitsFreed | entries | slotLeft | probeQueued | probeIdled | probeWithdrawn
  | ticked | released => assumption

/-- Settles O55: a course keeps the law, which speaks of neither the link nor the response channel. -/
theorem stepKeepsStallLaw : Obligations.StepKeepsStallLaw := by
  refine fun s t h => step_keeps (P := State.StallLaw) ?_ ?_ (fun _ _ _ c => c.stallLaw)
    (fun _ _ _ _ _ => State.stallLaw_of_empty (fun t => by simp [State.powerOn]) rfl) h
  · intro s t h law; rw [h]; exact law
  · intro s law; rw [s.offerNext_frame]; exact law

end Sys2Proof.Machine
end

section
/-! SUPPORT. The response channel along courses (R19, R20). -/

namespace Sys2Proof.Machine

/-- ANSWERED records stay as they are, and none becomes ANSWERED. -/
def TransitRecord.SameAnswered (r r' : TransitRecord) : Prop :=
  (r.isAnswered = true → r' = r) ∧ (r'.isAnswered = true → r' = r)

theorem TransitRecord.SameAnswered.refl (r : TransitRecord) : r.SameAnswered r := ⟨fun _ => rfl, fun _ => rfl⟩

theorem TransitRecord.not_answered_of_gated {r : TransitRecord} (h : r.isGated = true) : r.isAnswered = false := by
  rw [TransitRecord.isGated_iff] at h
  rw [← Bool.not_eq_true, TransitRecord.isAnswered_iff, h]
  exact fun ⟨_, h⟩ => nomatch h

/-- The gate unit leaves ANSWERED records as they are (R12). -/
theorem TransitRecord.Moved.of_answered {a : Bool} {r r' : TransitRecord} (h : TransitRecord.Moved a r r')
    (ha : r.isAnswered = true) : r' = r := by
  cases h with
  | kept => rfl
  | passed hg | spent hg | patched hg | answered _ hg => exact absurd ha (by simp [r.not_answered_of_gated hg])

theorem TransitRecord.Moved.sameAnswered {r r' : TransitRecord} (h : TransitRecord.Moved false r r') :
    r.SameAnswered r' := by
  refine ⟨h.of_answered, fun ha => ?_⟩
  cases h with
  | kept => rfl
  | passed => cases ha
  | spent hg => exact absurd ha (by exact (r.not_answered_of_gated hg).symm ▸ nofun)
  | patched hg => exact absurd ha (by exact (r.not_answered_of_gated hg).symm ▸ nofun)
  | answered hc => cases hc

/-- The records that were offered when the course began are at the front of their tags and deliverable: an offered
response names one of them. -/
def State.KeepsOffer (s₀ s : State) : Prop :=
  ∀ tag : Tag, s.offer = some tag → ∃ r rest, s.records[tag] = r :: rest ∧ r.isAnswered = true
    ∧ r.stalled = false ∧ ∃ r₀ ∈ s₀.records[tag], r₀.id = r.id ∧ r₀.isAnswered = true

/-- The front record stays deliverable under its mark. -/
def TransitRecord.KeepsDeliverable (r r' : TransitRecord) : Prop :=
  r.isAnswered = true → r.stalled = false → r'.isAnswered = true ∧ r'.stalled = false ∧ r'.id = r.id

theorem State.KeepsOffer.of_records {s₀ s t : State} (h : s₀.KeepsOffer s) (ho : t.offer = s.offer)
    (hr : ∀ u : Tag, s.offer = some u → List.Forall₂ TransitRecord.KeepsDeliverable s.records[u] t.records[u]) :
    s₀.KeepsOffer t := by
  intro tag htag
  rw [ho] at htag
  obtain ⟨r, rest, hl, ha, hs, r₀, hr₀, hi, ha₀⟩ := h tag htag
  have hf := hr tag htag
  rw [hl] at hf
  obtain ⟨r', rest', hk, -, hl'⟩ := List.forall₂_cons_left_iff.1 hf
  obtain ⟨ha', hs', hi'⟩ := hk ha hs
  exact ⟨r', rest', hl', ha', hs', r₀, hr₀, hi.trans hi'.symm, ha₀⟩

theorem TransitRecord.keepsDeliverable_of_eq {r r' : TransitRecord} (h : r.isAnswered = true → r' = r) :
    r.KeepsDeliverable r' :=
  fun ha hs => by rw [h ha]; exact ⟨ha, hs, rfl⟩

/-- Where no ANSWERED record changes and none is new, the same responses are deliverable (R19). -/
theorem State.deliverable_none_of_records {s t : State} (hd : ∀ u : Tag, s.deliverable u = none)
    (hr : ∀ u : Tag, List.Forall₂ TransitRecord.SameAnswered s.records[u] t.records[u]) (u : Tag) :
    t.deliverable u = none := by
  rw [← Option.not_isSome_iff_eq_none, State.deliverable_isSome]
  rintro ⟨r', rest', hl, ha, hs⟩
  have hf := hr u
  rw [hl] at hf
  obtain ⟨r, rest, hk, -, hl'⟩ := List.forall₂_cons_right_iff.1 hf
  have := State.deliverable_isSome.2 ⟨r, rest, hl', hk.2 ha ▸ ha, hk.2 ha ▸ hs⟩
  simp [hd u] at this

theorem State.KeepsOffer.gateWork {a : Bool} {s₀ s t : State} (h : s₀.KeepsOffer s) (hw : s.GateWork a t) :
    s₀.KeepsOffer t :=
  h.of_records (by rw [hw.frame]) fun u _ => (hw.moved u).imp fun _ _ hm =>
    TransitRecord.keepsDeliverable_of_eq hm.of_answered

theorem State.KeepsOffer.setRecords {s₀ s : State} (h : s₀.KeepsOffer s) {tag : Tag} {l : List TransitRecord}
    (hl : List.Forall₂ TransitRecord.KeepsDeliverable s.records[tag] l) : s₀.KeepsOffer (s.setRecords tag l) := by
  refine h.of_records rfl fun u _ => ?_
  rw [State.setRecords_get]
  split
  · next hu => subst hu; exact hl
  · exact forall₂_self (fun r => TransitRecord.keepsDeliverable_of_eq fun _ => rfl) _

/-- An unstalled record stays deliverable where it was (R116). -/
theorem State.KeepsOffer.unstall {s₀ s : State} (h : s₀.KeepsOffer s) (l : RecordLink) :
    s₀.KeepsOffer (s.unstall l) := by
  refine State.KeepsOffer.gateWork (a := false) (s := s.markStall l false)
    (State.KeepsOffer.of_records h rfl fun u _ => ?_)
    (.consider (s.markStall l false) l.tag)
  rw [State.markStall_records]
  refine forall₂_map fun r _ => ?_
  split
  · exact fun ha _ => ⟨ha, rfl, rfl⟩
  · exact fun ha hs => ⟨ha, hs, rfl⟩

theorem State.KeepsOffer.refill {s₀ s : State} (h : s₀.KeepsOffer s) : s₀.KeepsOffer s.refill :=
  State.refill_induction (P := s₀.KeepsOffer) (fun _ _ _ h _ _ => State.KeepsOffer.unstall (by exact h) _) h

/-- A stall marks no record that was already offered (R17). -/
theorem State.KeepsOffer.lossless {s₀ s : State} (h : s₀.KeepsOffer s) (e : Event) {tag : Tag} {id : Nat}
    (hl : ∀ r ∈ s₀.records[tag], r.id = id → r.isAnswered = false) :
    s₀.KeepsOffer (s.place e (some ⟨tag, id⟩)) := by
  intro u hu
  rw [State.place_offer] at hu
  obtain ⟨r, rest, hr, ha, hs, r₀, hr₀, hi, ha₀⟩ := h u hu
  rcases s.place_records_get e (some ⟨tag, id⟩) u with hp | ⟨k, hk, hku, hp⟩
  · exact ⟨r, rest, hp.trans hr, ha, hs, r₀, hr₀, hi, ha₀⟩
  · cases hk
    subst hku
    have other : r.id ≠ id := fun hri => by simp [hl r₀ hr₀ (hi.trans hri)] at ha₀
    rw [hr, List.map_cons, if_neg other] at hp
    exact ⟨r, _, hp, ha, hs, r₀, hr₀, hi, ha₀⟩

theorem State.KeepsOffer.addRecord {s₀ s : State} (h : s₀.KeepsOffer s) (tag : Tag) (r : TransitRecord) :
    s₀.KeepsOffer (s.addRecord tag r) := by
  intro u hu
  obtain ⟨x, rest, hx, hrest⟩ := h u hu
  refine ⟨x, if tag = u then rest ++ [r] else rest, ?_, hrest⟩
  change (s.setRecords tag (s.records[tag] ++ [r])).records[u] = _
  rw [State.setRecords_get]
  split
  · next hu => subst hu; rw [hx, List.cons_append]
  · exact hx

theorem State.keepsOffer_of_idle {s₀ s : State} (h : s.offer = none) : s₀.KeepsOffer s :=
  fun _ ht => absurd (h.symm.trans ht) nofun

/-- The response channel along a course: what is offered stays deliverable, and while nothing is offered and no
response is due none is deliverable. -/
structure State.OfferKept (s₀ : State) (due : Bool) (s : State) : Prop where
  keeps : s₀.KeepsOffer s
  idle : due = false → s.offer = none → ∀ tag : Tag, s.deliverable tag = none

theorem State.OfferKept.of_due {s₀ s : State} (h : s₀.KeepsOffer s) : s₀.OfferKept true s := ⟨h, nofun⟩

/-- The law where records change in their places and the ANSWERED ones do not. -/
theorem State.OfferKept.of_records {s₀ s t : State} {due : Bool} (h : s₀.OfferKept due s)
    (ho : t.offer = s.offer)
    (hr : ∀ u : Tag, List.Forall₂ TransitRecord.SameAnswered s.records[u] t.records[u]) : s₀.OfferKept due t where
  keeps := h.keeps.of_records ho fun u _ => (hr u).imp fun _ _ h => TransitRecord.keepsDeliverable_of_eq h.1
  idle hd hn := State.deliverable_none_of_records (h.idle hd (ho ▸ hn)) hr

theorem State.OfferKept.setRecords {s₀ s : State} {due : Bool} (h : s₀.OfferKept due s) {tag : Tag}
    {l : List TransitRecord} (hl : List.Forall₂ TransitRecord.SameAnswered s.records[tag] l) :
    s₀.OfferKept due (s.setRecords tag l) := by
  refine h.of_records rfl fun u => ?_
  rw [State.setRecords_get]
  split
  · next hu => subst hu; exact hl
  · exact forall₂_self .refl _

theorem State.offerKept_of_empty {s₀ s : State} {due : Bool} (ho : s.offer = none)
    (hr : ∀ t : Tag, s.records[t] = []) : s₀.OfferKept due s where
  keeps := State.keepsOffer_of_idle ho
  idle _ _ tag := by
    rw [← Option.not_isSome_iff_eq_none, State.deliverable_isSome, hr tag]
    exact fun ⟨_, _, h, _⟩ => nomatch h

theorem State.OfferKept.finishProbe {s₀ s : State} {due : Bool} (h : s₀.OfferKept due s) (code : ProbeCode)
    (values : List Beat) : s₀.OfferKept due (s.finishProbe code values) := by
  rw [s.finishProbe_frame]
  exact ⟨h.keeps, h.idle⟩

theorem State.Course.offerKept {s₀ s : State} {due : Bool} (c : s₀.Course due s) (stalls : s₀.StallLaw)
    (law : s₀.OfferLaw) : s₀.OfferKept due s := by
  induction c with
  | start =>
    refine ⟨fun tag ht => ?_, fun _ hn => law.2 hn⟩
    obtain ⟨r, rest, hl, ha, hs⟩ := State.deliverable_isSome.1 (law.1 tag ht)
    exact ⟨r, rest, hl, ha, hs, r, by rw [hl]; exact List.mem_cons_self, rfl, ha⟩
  | alike c h ih => rw [h]; exact ⟨ih.keeps, ih.idle⟩
  | @gates due answers _ _ c h ih =>
    cases answers with
    | true => exact .of_due (ih.keeps.gateWork h)
    | false => exact ih.of_records (by rw [h.frame]) fun u => (h.moved u).imp fun _ _ hm => hm.sameAnswered
  | lossy c e ih => rw [State.place_none_frame]; exact ⟨ih.keeps, ih.idle⟩
  | lossless c he hr h ih => exact .of_due (ih.keeps.lossless _ (h stalls).2)
  | storeTaken c l h ih => exact .of_due (State.KeepsOffer.refill (by exact ih.keeps))
  | stallTaken c h ih => exact .of_due (State.KeepsOffer.unstall (by exact ih.keeps) _)
  | added c hs hl hi h ih => exact .of_due (ih.keeps.addRecord _ _)
  | delivered c hl ha hs ih => exact .of_due (State.keepsOffer_of_idle rfl)
  | @recordIssued due s c k tag hk ih =>
    rcases s.grantRecord_cases k tag with h | ⟨r, -, request, h⟩ <;> rw [h]
    · exact ih
    · have issued : s₀.OfferKept due (s.setRecords tag
          (onFirst (·.isReady) (fun r => { r with phase := .atMemory k }) s.records[tag])) := by
        refine ih.setRecords (forall₂_onFirst .refl fun r hr => ⟨fun ha => ?_, nofun⟩)
        have ready : r.isReady = true := List.find?_some hr
        rw [TransitRecord.isReady_iff] at ready
        simp [ready] at ha
      exact ⟨issued.keeps, issued.idle⟩
  | probeIssued c hk ih =>
    rcases State.grantProbe_cases _ _ with h | ⟨q, -, request, h⟩ <;> rw [h] <;> exact ⟨ih.keeps, ih.idle⟩
  | @recordAnswered _ s c k tag v code values hk hv hc ih =>
    refine .of_due (State.KeepsOffer.setRecords (s := s.setSlot k v) ih.keeps (forall₂_map fun r _ => ?_))
    refine TransitRecord.keepsDeliverable_of_eq fun ha => if_neg fun hin => ?_
    rw [TransitRecord.inSlot_iff] at hin
    simp [hin] at ha
  | @probeAnswered _ s c k v _ _ hk hv hc ih =>
    exact State.OfferKept.finishProbe (s := s.setSlot k v) ⟨ih.keeps, ih.idle⟩ _ _
  | @cleared _ s c ih =>
    refine .of_due (ih.keeps.of_records rfl fun u _ => ?_)
    simp only [State.clearConfiguration, Fin.getElem_fin, Vector.getElem_ofFn]
    exact forall₂_map fun r _ ha _ => ⟨ha, rfl, rfl⟩
  | asserted c holdboot ih =>
    exact State.OfferKept.finishProbe (s := State.discardTarget _ holdboot)
      (State.offerKept_of_empty rfl fun t => by simp [State.discardTarget]) _ _
  | entries | waitPended | waitCompleted | waitsFreed | slotLeft | probeQueued | probeIdled | probeWithdrawn
  | ticked | released => rename_i ih; exact ⟨ih.keeps, ih.idle⟩

theorem State.KeepsOffer.deliverable {s₀ s : State} (h : s₀.KeepsOffer s) (tag : Tag) (ht : s.offer = some tag) :
    (s.deliverable tag).isSome = true := by
  obtain ⟨r, rest, hl, ha, hs, -⟩ := h tag ht
  exact State.deliverable_isSome.2 ⟨r, rest, hl, ha, hs⟩

theorem State.SameBlocks.offerLaw {s t : State} (h : s.SameBlocks t) (law : s.OfferLaw) : t.OfferLaw := by
  rw [h]; exact law

theorem State.offerLaw_powerOn (holdboot sysrstLow lcsLow : Bool) (waiting : List Instr) (pins : List PinChange) :
    (State.powerOn holdboot sysrstLow lcsLow waiting pins).OfferLaw := by
  have kept := State.offerKept_of_empty (s₀ := State.powerOn holdboot sysrstLow lcsLow waiting pins) (due := false)
    (s := State.powerOn holdboot sysrstLow lcsLow waiting pins) rfl fun t => by simp [State.powerOn]
  exact ⟨nofun, kept.idle rfl⟩

/-- Settles O56: along a course an offer stays deliverable, and a course that makes a response deliverable ends with
the response channel's choice. -/
theorem stepKeepsOfferLaw : Obligations.StepKeepsOfferLaw := by
  intro s t h stalls law
  obtain ⟨s', hb, he⟩ := step_ends h
  have law' := hb.offerLaw law
  have stalls' : s'.StallLaw := by rw [hb]; exact stalls
  rcases he with ⟨hl, ht⟩ | ⟨_, _, _, _, _, ht⟩
  · refine ht.offerLaw ?_
    rcases hl with ⟨c, hu⟩ | ⟨c, hu⟩
    · have kept := c.offerKept stalls' law'
      exact hu.sameBlocks.offerLaw ⟨kept.keeps.deliverable, kept.idle rfl⟩
    · exact hu.sameBlocks.offerLaw (State.offerNext_law (c.offerKept stalls' law').keeps.deliverable)
  · exact ht.offerLaw (State.offerLaw_powerOn _ _ _ _ _)

end Sys2Proof.Machine
end

section
/-! SUPPORT. Memory slots and their occupants along courses (R14, R81, R85, R91). -/

namespace Sys2Proof.Machine

/-! ## The law in parts -/

/-- The number of slots BUSY with the probe. -/
def State.probeSlots (s : State) : Nat := (allSlots.filter fun k => s.slots[k].holdsProbe).length

/-- The law of slots in parts: the records in each slot, what was issued for them, the probe's slot, and the
timers. -/
structure State.SlotsKept (s : State) : Prop where
  records : ∀ (t : Tag) (k : SlotIndex),
    (s.records[t].filter (·.inSlot k)).length = if s.slots[k].holdsRecord t then 1 else 0
  issued : ∀ (t : Tag) (k : SlotIndex), ∀ r ∈ s.records[t], r.inSlot k = true → s.slots[k].issued r = true
  probe : ∀ q, s.probe = .atMemory q → s.probeSlots = 1
  noProbe : (∀ q, s.probe ≠ .atMemory q) → s.probeSlots = 0
  timers : ∀ k : SlotIndex, s.slots[k].timerSound = true

theorem State.slotLaw_iff {s : State} : s.SlotLaw ↔ s.SlotsKept := by
  constructor
  · rintro ⟨hr, hi, hp, ht⟩
    refine ⟨hr, hi, fun q hq => ?_, fun hn => ?_, ht⟩
    · simpa only [hq, State.probeSlots] using hp
    · cases h : s.probe with
      | atMemory q => exact absurd h (hn q)
      | _ => simpa only [h, State.probeSlots] using hp
  · rintro ⟨hr, hi, hp, hn, ht⟩
    refine ⟨hr, hi, ?_, ht⟩
    cases h : s.probe with
    | atMemory q => exact hp q h
    | _ => exact hn (by rw [h]; nofun)

/-! ## Slots -/

/-- A count over distinct places, one of which changes. -/
theorem filter_length_change {α : Type} {l : List α} (hl : l.Nodup) {p q : α → Bool} {a : α} (ha : a ∈ l)
    (h : ∀ x, x ≠ a → q x = p x) :
    (l.filter q).length + (p a).toNat = (l.filter p).length + (q a).toNat := by
  obtain ⟨pre, post, rfl⟩ := List.append_of_mem ha
  have hn := (List.nodup_middle.1 hl)
  have same : ∀ m : List α, (∀ x ∈ m, x ≠ a) → m.filter q = m.filter p := fun m hm =>
    List.filter_congr fun x hx => h x (hm x hx)
  have not_mem := (List.nodup_cons.1 hn).1
  rw [List.filter_append, List.filter_append, List.filter_cons, List.filter_cons,
    same pre fun x hx hxa => not_mem (by simp [← hxa, hx]), same post fun x hx hxa => not_mem (by simp [← hxa, hx])]
  cases p a <;> cases q a <;> simp <;> omega

theorem mem_allSlots (k : SlotIndex) : k ∈ allSlots := by revert k; decide

theorem allSlots_nodup : allSlots.Nodup := by decide

/-- One slot is written: the number of slots with the probe changes by it alone. -/
theorem State.probeSlots_setSlot (s : State) (k : SlotIndex) (v : Slot) :
    (s.setSlot k v).probeSlots + s.slots[k].holdsProbe.toNat = s.probeSlots + v.holdsProbe.toNat := by
  have h := filter_length_change allSlots_nodup (p := fun j : SlotIndex => s.slots[j].holdsProbe)
    (q := fun j : SlotIndex => (s.setSlot k v).slots[j].holdsProbe) (mem_allSlots k)
    fun j hj => by rw [State.setSlot_get, if_neg (Ne.symm hj)]
  rw [State.setSlot_get, if_pos rfl] at h
  exact h

theorem State.probeSlots_eq_zero {s : State} (h : ∀ k : SlotIndex, s.slots[k].holdsProbe = false) :
    s.probeSlots = 0 := by
  simpa [State.probeSlots] using fun k _ => h k

theorem State.probeSlots_pos {s : State} {k : SlotIndex} (h : s.slots[k].holdsProbe = true) : 0 < s.probeSlots :=
  List.length_pos_of_mem (List.mem_filter.2 ⟨mem_allSlots k, h⟩)

/-- A slot with the probe shows that the probe is AT-MEMORY (R81). -/
theorem State.SlotsKept.probe_of_slot {s : State} (law : s.SlotsKept) {k : SlotIndex}
    (h : s.slots[k].holdsProbe = true) : ∃ q, s.probe = .atMemory q := by
  by_contra hn
  have := law.noProbe fun q hq => hn ⟨q, hq⟩
  exact absurd this (State.probeSlots_pos h).ne'

/-- A slot that is not BUSY holds no record and no probe, and has no timer. -/
theorem Slot.of_not_busy {v : Slot} (h : v.isBusy = false) :
    (∀ t, v.holdsRecord t = false) ∧ v.holdsProbe = false ∧ v.timerSound = true := by
  cases v with
  | free | lingering => exact ⟨fun _ => rfl, rfl, rfl⟩
  | busy => cases h

theorem Slot.holdsProbe_of_record {v : Slot} {tag : Tag} (h : v.holdsRecord tag = true) : v.holdsProbe = false := by
  unfold Slot.holdsRecord at h
  split at h
  · rfl
  · cases h

theorem Slot.holdsRecord_of_probe {v : Slot} (h : v.holdsProbe = true) (t : Tag) : v.holdsRecord t = false := by
  unfold Slot.holdsProbe at h
  split at h
  · rfl
  · cases h

theorem Slot.holdsRecord_tag {v : Slot} {tag : Tag} (h : v.holdsRecord tag = true) (t : Tag) :
    v.holdsRecord t = decide (tag = t) := by
  unfold Slot.holdsRecord at h ⊢
  split at h
  · obtain rfl := beq_iff_eq.1 h
    rw [Bool.eq_iff_iff, beq_iff_eq, decide_eq_true_iff]
  · cases h

/-- The timer of a slot right after its grant (R85). -/
theorem Slot.timerSound_issued (o : Occupant) (a : Access) (n : Nat) (limit : BitVec 16) :
    (Slot.busy o a n limit (startTimer limit)).timerSound = true := by
  unfold startTimer
  split
  · next h => rw [h]; rfl
  · next h => simpa [Slot.timerSound] using h

/-- Where no slot holds a record of the tag, no record of it names the slot. -/
theorem State.SlotsKept.not_inSlot {s : State} (law : s.SlotsKept) {t : Tag} {k : SlotIndex}
    (h : s.slots[k].holdsRecord t = false) {r : TransitRecord} (hr : r ∈ s.records[t]) : r.inSlot k = false := by
  have := law.records t k
  rw [h, if_neg nofun, List.length_eq_zero_iff, List.filter_eq_nil_iff] at this
  simpa using this r hr

/-! ## Records and slots that change -/

/-- The record keeps its access and beats, and whether it names a slot of `P`. -/
def TransitRecord.KeepsSlots (P : SlotIndex → Prop) (r r' : TransitRecord) : Prop :=
  r'.access = r.access ∧ r'.beats = r.beats ∧ ∀ k, P k → r'.inSlot k = r.inSlot k

theorem TransitRecord.keepsSlots_refl (P : SlotIndex → Prop) (r : TransitRecord) : r.KeepsSlots P r :=
  ⟨rfl, rfl, fun _ _ => rfl⟩

theorem TransitRecord.inSlot_of_gated {r : TransitRecord} (h : r.isGated = true) (k : SlotIndex) :
    r.inSlot k = false := by
  rw [TransitRecord.isGated_iff] at h
  simp [h]

theorem TransitRecord.inSlot_of_ready {r : TransitRecord} (h : r.isReady = true) (k : SlotIndex) :
    r.inSlot k = false := by
  rw [TransitRecord.isReady_iff] at h
  simp [h]

theorem TransitRecord.inSlot_of_answered {r : TransitRecord} (h : r.isAnswered = true) (k : SlotIndex) :
    r.inSlot k = false := by
  rw [TransitRecord.isAnswered_iff] at h
  obtain ⟨a, h⟩ := h
  simp [h]

theorem TransitRecord.inSlot_atMemory (r : TransitRecord) (k j : SlotIndex) :
    TransitRecord.inSlot j { r with phase := .atMemory k } = decide (k = j) := by
  by_cases h : k = j <;> simp [TransitRecord.inSlot, h]

theorem TransitRecord.Moved.keepsSlots {a : Bool} {r r' : TransitRecord} (h : TransitRecord.Moved a r r')
    (P : SlotIndex → Prop) : r.KeepsSlots P r' := by
  cases h with
  | kept | spent | patched => exact ⟨rfl, rfl, fun _ _ => rfl⟩
  | passed hg | answered _ hg => exact ⟨rfl, rfl, fun k _ => (r.inSlot_of_gated hg k).symm⟩

theorem Slot.issued_congr {v : Slot} {r r' : TransitRecord} (ha : r'.access = r.access) (hb : r'.beats = r.beats) :
    v.issued r' = v.issued r := by
  simp only [Slot.issued, ha, hb]

/-- Records change in their places, and of the slots at most `k`. -/
theorem State.SlotsKept.change {s t : State} (law : s.SlotsKept) (k : SlotIndex)
    (hr : ∀ u : Tag, List.Forall₂ (TransitRecord.KeepsSlots (· ≠ k)) s.records[u] t.records[u])
    (hs : ∀ j : SlotIndex, j ≠ k → t.slots[j] = s.slots[j])
    (hk : ∀ u : Tag, (t.records[u].filter (·.inSlot k)).length = if t.slots[k].holdsRecord u then 1 else 0)
    (hi : ∀ u : Tag, ∀ r ∈ t.records[u], r.inSlot k = true → t.slots[k].issued r = true)
    (ht : t.slots[k].timerSound = true) (hp : ∀ q, t.probe = .atMemory q → t.probeSlots = 1)
    (hn : (∀ q, t.probe ≠ .atMemory q) → t.probeSlots = 0) : t.SlotsKept where
  records u j := by
    by_cases hj : j = k
    · subst hj; exact hk u
    · rw [hs j hj, ← law.records u j]
      exact filter_length_eq_of_forall₂ (hr u) fun _ _ h => h.2.2 j hj
  issued u j r' hr' hin := by
    by_cases hj : j = k
    · subst hj; exact hi u r' hr' hin
    · obtain ⟨r, hmem, ha, hb, hsl⟩ := exists_of_forall₂_mem (hr u) hr'
      rw [hs j hj, Slot.issued_congr ha hb]
      exact law.issued u j r hmem (hsl j hj ▸ hin)
  probe := hp
  noProbe := hn
  timers j := by
    by_cases hj : j = k
    · subst hj; exact ht
    · rw [hs j hj]; exact law.timers j

/-- Records change in their places and name the slots they named. -/
theorem State.SlotsKept.of_records {s t : State} (law : s.SlotsKept)
    (hr : ∀ u : Tag, List.Forall₂ (TransitRecord.KeepsSlots fun _ => True) s.records[u] t.records[u])
    (hs : t.slots = s.slots) (hp : t.probe = s.probe) : t.SlotsKept where
  records u j := by
    rw [hs, ← law.records u j]
    exact filter_length_eq_of_forall₂ (hr u) fun _ _ h => h.2.2 j trivial
  issued u j r' hr' hin := by
    obtain ⟨r, hmem, ha, hb, hsl⟩ := exists_of_forall₂_mem (hr u) hr'
    rw [hs, Slot.issued_congr ha hb]
    exact law.issued u j r hmem (hsl j trivial ▸ hin)
  probe := by simpa only [hp, State.probeSlots, hs] using law.probe
  noProbe := by simpa only [hp, State.probeSlots, hs] using law.noProbe
  timers := by simpa only [hs] using law.timers

theorem State.SlotsKept.setRecords {s : State} (law : s.SlotsKept) {tag : Tag} {l : List TransitRecord}
    (hl : List.Forall₂ (TransitRecord.KeepsSlots fun _ => True) s.records[tag] l) :
    (s.setRecords tag l).SlotsKept := by
  refine law.of_records (fun u => ?_) rfl rfl
  rw [State.setRecords_get]
  split
  · next hu => subst hu; exact hl
  · exact forall₂_self (TransitRecord.keepsSlots_refl _) _

theorem State.SlotsKept.gateWork {a : Bool} {s t : State} (law : s.SlotsKept) (h : s.GateWork a t) : t.SlotsKept :=
  law.of_records (fun u => (h.moved u).imp fun _ _ hm => hm.keepsSlots _) (by rw [h.frame]) (by rw [h.frame])

theorem State.SlotsKept.markStall {s : State} (law : s.SlotsKept) (l : RecordLink) (b : Bool) :
    (s.markStall l b).SlotsKept :=
  law.setRecords (forall₂_map fun r _ => by split <;> exact ⟨rfl, rfl, fun _ _ => rfl⟩)

/-- Whatever writes neither records, slots nor the probe keeps the law. -/
theorem State.SlotsKept.frame {s t : State} (law : s.SlotsKept) (hr : t.records = s.records)
    (hs : t.slots = s.slots) (hp : t.probe = s.probe) : t.SlotsKept :=
  law.of_records (fun u => by rw [hr]; exact forall₂_self (TransitRecord.keepsSlots_refl _) _) hs hp

theorem State.SlotsKept.unstall {s : State} (law : s.SlotsKept) (l : RecordLink) : (s.unstall l).SlotsKept :=
  State.SlotsKept.gateWork (a := false) (law.markStall l false) (.consider _ l.tag)

theorem State.SlotsKept.place {s : State} (law : s.SlotsKept) (e : Event) (l : Option RecordLink) :
    (s.place e l).SlotsKept := by
  rcases s.place_cases e l with ⟨_, _, _, -, -, -, h⟩ | ⟨-, ⟨-, h⟩ | ⟨-, ⟨k, -, h⟩ | ⟨-, h⟩⟩⟩ <;> rw [h]
  · exact law.frame rfl rfl rfl
  · exact law.frame rfl rfl rfl
  · exact State.SlotsKept.markStall (s := { s with stalls := s.stalls ++ [⟨e, k⟩] }) (law.frame rfl rfl rfl) k true
  · exact law.frame rfl rfl rfl

theorem State.SlotsKept.refill {s : State} (law : s.SlotsKept) : s.refill.SlotsKept :=
  State.refill_induction (P := State.SlotsKept)
    (fun s e rest law _ _ => State.SlotsKept.unstall
      (s := ({ s with stalls := rest } : State).deliverToStore e.event) (law.frame rfl rfl rfl) e.link) law

/-! ## Records that come and go -/

/-- A tag's list changes by records that name no slot. -/
theorem State.SlotsKept.changeList {s t : State} (law : s.SlotsKept) {tag : Tag} {l : List TransitRecord}
    (hf : ∀ k : SlotIndex, l.filter (·.inSlot k) = s.records[tag].filter (·.inSlot k))
    (hr : t.records = (s.setRecords tag l).records) (hs : t.slots = s.slots) (hp : t.probe = s.probe) :
    t.SlotsKept := by
  have same : ∀ (u : Tag) (k : SlotIndex), t.records[u].filter (·.inSlot k) = s.records[u].filter (·.inSlot k) := by
    intro u k
    rw [hr, State.setRecords_get]
    split
    · next hu => subst hu; exact hf k
    · rfl
  refine ⟨fun u k => by rw [same, hs]; exact law.records u k, fun u k r hmem hin => ?_,
    by simpa only [hp, State.probeSlots, hs] using law.probe,
    by simpa only [hp, State.probeSlots, hs] using law.noProbe, by simpa only [hs] using law.timers⟩
  have : r ∈ s.records[u].filter (·.inSlot k) := same u k ▸ List.mem_filter.2 ⟨hmem, hin⟩
  rw [hs]
  exact law.issued u k r (List.mem_filter.1 this).1 hin

theorem TransitRecord.Accepted.inSlot {r : TransitRecord} (h : r.Accepted) (k : SlotIndex) : r.inSlot k = false := by
  rcases h.phase with h | h
  · exact r.inSlot_of_gated h k
  · exact r.inSlot_of_answered h k

/-! ## Grants -/

/-- A slot is written with one that holds the probe exactly where the old one did. -/
theorem State.probeSlots_eq {s t : State} {k : SlotIndex} {v : Slot} (hs : t.slots = (s.setSlot k v).slots)
    (hv : v.holdsProbe = s.slots[k].holdsProbe) : t.probeSlots = s.probeSlots := by
  have := s.probeSlots_setSlot k v
  rw [hv] at this
  rw [State.probeSlots, hs]
  exact Nat.add_right_cancel this

/-- The record is issued into a FREE slot (R85). -/
theorem State.SlotsKept.issue {s t : State} (law : s.SlotsKept) {k : SlotIndex} (hk : s.slots[k] = .free)
    {tag : Tag} {pre post : List TransitRecord} {r : TransitRecord} (hl : s.records[tag] = pre ++ r :: post)
    (ready : r.isReady = true)
    (hr : t.records = (s.setRecords tag (pre ++ { r with phase := .atMemory k } :: post)).records)
    {limit : BitVec 16} (hs : t.slots = (s.setSlot k
      (.busy (.record tag) r.access r.beats.toNat limit (startTimer limit))).slots)
    (hp : t.probe = s.probe) : t.SlotsKept := by
  have hcount := State.probeSlots_eq (s := s) hs (by rw [hk]; rfl)
  have free : ∀ (u : Tag), ∀ x ∈ s.records[u], TransitRecord.inSlot k x = false := fun u x hx =>
    law.not_inSlot (by rw [hk]; rfl) hx
  have slot : t.slots[k] = .busy (.record tag) r.access r.beats.toNat limit (startTimer limit) := by
    rw [hs, State.setSlot_get, if_pos rfl]
  have others : ∀ l : List TransitRecord, (∀ x ∈ l, x ∈ s.records[tag]) → l.filter (·.inSlot k) = [] := fun l hsub =>
    List.filter_eq_nil_iff.2 fun x hx => by simp only [free tag x (hsub x hx), Bool.false_eq_true, not_false_iff]
  refine law.change k (fun u => ?_) (fun j hj => ?_) (fun u => ?_) (fun u x hx hin => ?_) ?_ ?_ ?_
  · rw [hr, State.setRecords_get]
    split
    · next hu =>
      subst hu
      rw [hl]
      refine List.rel_append (forall₂_self (TransitRecord.keepsSlots_refl _) _)
        (.cons ⟨rfl, rfl, fun j hj => ?_⟩ (forall₂_self (TransitRecord.keepsSlots_refl _) _))
      rw [r.inSlot_of_ready ready, TransitRecord.inSlot_atMemory, decide_eq_false (Ne.symm hj)]
    · exact forall₂_self (TransitRecord.keepsSlots_refl _) _
  · rw [hs, State.setSlot_get, if_neg (Ne.symm hj)]
  · rw [slot, hr, State.setRecords_get]
    split
    · next hu =>
      subst hu
      rw [List.filter_append, List.filter_cons, 
        others pre fun x hx => hl ▸ List.mem_append_left _ hx,
        others post fun x hx => hl ▸ List.mem_append_right _ (List.mem_cons_of_mem _ hx)]
      simp [TransitRecord.inSlot_atMemory, Slot.holdsRecord]
    · next hu =>
      rw [List.filter_eq_nil_iff.2 fun x hx => by simp only [free u x hx, Bool.false_eq_true, not_false_iff]]
      simp [Slot.holdsRecord, hu]
  · rw [slot]
    rw [hr, State.setRecords_get] at hx
    split at hx
    · have : x = { r with phase := .atMemory k } := by
        rcases List.mem_append.1 hx with hx | hx
        · exact absurd hin (by simp only [free tag x (by rw [hl]; exact List.mem_append_left _ hx)]; nofun)
        · exact (List.mem_cons.1 hx).resolve_right fun hx => absurd hin
            (by simp only [free tag x (by rw [hl]; simp [hx])]; nofun)
      simp [this, Slot.issued]
    · exact absurd hin (by simp only [free u x hx]; nofun)
  · rw [slot]; exact Slot.timerSound_issued _ _ _ _
  · rw [hp, hcount]; exact law.probe
  · rw [hp, hcount]; exact law.noProbe

theorem State.SlotsKept.grantRecord {s : State} (law : s.SlotsKept) {k : SlotIndex} (hk : s.slots[k] = .free)
    (tag : Tag) : (s.grantRecord k tag).SlotsKept := by
  rcases s.grantRecord_cases k tag with h | ⟨r, hr, request, h⟩
  · rw [h]; exact law
  · obtain ⟨ready, pre, post, hl, hpre⟩ := List.find?_eq_some_iff_append.1 hr
    refine law.issue hk hl ready (limit := s.responseLimit) ?_ (by rw [h]; rfl) (by rw [h])
    rw [h, hl, onFirst_append (by simpa using hpre) ready]
    rfl

/-- A slot that holds no record is written with one that holds none. -/
theorem State.SlotsKept.setSlot {s t : State} (law : s.SlotsKept) {k : SlotIndex} {v : Slot}
    (hk : ∀ u, s.slots[k].holdsRecord u = false) (hv : ∀ u, v.holdsRecord u = false)
    (ht : v.timerSound = true) (hr : t.records = s.records) (hs : t.slots = (s.setSlot k v).slots)
    (hp : ∀ q, t.probe = .atMemory q → t.probeSlots = 1)
    (hn : (∀ q, t.probe ≠ .atMemory q) → t.probeSlots = 0) : t.SlotsKept := by
  have slot : t.slots[k] = v := by rw [hs, State.setSlot_get, if_pos rfl]
  refine law.change k (fun u => ?_) (fun j hj => ?_) (fun u => ?_) (fun u r hmem hin => ?_) (by rwa [slot]) hp hn
  · rw [hr]; exact forall₂_self (TransitRecord.keepsSlots_refl _) _
  · rw [hs, State.setSlot_get, if_neg (Ne.symm hj)]
  · rw [slot, hr, law.records u k, hk u, hv u]
  · rw [hr] at hmem
    rw [law.not_inSlot (hk u) hmem] at hin
    cases hin

theorem State.SlotsKept.grantProbe {s : State} (law : s.SlotsKept) {k : SlotIndex} (hk : s.slots[k] = .free) :
    (s.grantProbe k).SlotsKept := by
  rcases s.grantProbe_cases k with h | ⟨q, hq, request, h⟩
  · rw [h]; exact law
  · rw [h]
    have hcount := s.probeSlots_setSlot k (.busy .probe q.access q.beats s.responseLimit (startTimer s.responseLimit))
    rw [law.noProbe (by rw [hq]; nofun), hk] at hcount
    refine law.setSlot (k := k) (by rw [hk]; exact fun _ => rfl) (fun _ => rfl)
      (Slot.timerSound_issued .probe q.access q.beats s.responseLimit) rfl rfl (fun _ _ => hcount)
      fun hn => absurd rfl (hn q)

/-! ## Answers -/

theorem State.SlotsKept.answerRecord {s : State} (law : s.SlotsKept) {k : SlotIndex} {tag : Tag} {v : Slot}
    (hk : s.slots[k].holdsRecord tag = true) (hv : v.isBusy = false) (code : AnswerCode) (values : List Beat) :
    ((s.setSlot k v).answerRecord tag k code values).SlotsKept := by
  obtain ⟨hvr, hvp, hvt⟩ := Slot.of_not_busy hv
  have hcount := State.probeSlots_eq (s := s) (t := (s.setSlot k v).answerRecord tag k code values) (v := v) (k := k)
    rfl (hvp.trans (Slot.holdsProbe_of_record hk).symm)
  have hget : ∀ u : Tag, ((s.setSlot k v).answerRecord tag k code values).records[u] = if tag = u then
      s.records[tag].map (fun r => if r.inSlot k then r.answeredWith code values else r) else s.records[u] := fun u =>
    State.setRecords_get _ _ _ _
  have slot : ((s.setSlot k v).answerRecord tag k code values).slots[k] = v := by
    change (s.setSlot k v).slots[k] = v
    rw [State.setSlot_get, if_pos rfl]
  have left : ∀ (u : Tag), ∀ x ∈ ((s.setSlot k v).answerRecord tag k code values).records[u],
      x.inSlot k = false := by
    intro u x hx
    rw [hget] at hx
    split at hx
    · obtain ⟨r, -, rfl⟩ := List.mem_map.1 hx
      split
      · exact TransitRecord.inSlot_of_answered rfl k
      · next h => exact Bool.not_eq_true _ ▸ h
    · next hu => exact law.not_inSlot (by rw [Slot.holdsRecord_tag hk, decide_eq_false hu]) hx
  refine law.change k (fun u => ?_) (fun j hj => ?_) (fun u => ?_) (fun u x hx hin => ?_) (by rwa [slot])
    (by rw [hcount]; exact law.probe) (by rw [hcount]; exact law.noProbe)
  · rw [hget]
    split
    · next hu =>
      subst hu
      refine forall₂_map fun r _ => ?_
      split
      · next hin =>
        refine ⟨rfl, rfl, fun j hj => ?_⟩
        rw [TransitRecord.inSlot_of_answered rfl j, eq_comm, ← Bool.not_eq_true]
        simp only [TransitRecord.inSlot_iff] at hin ⊢
        rw [hin]
        simpa using Ne.symm hj
      · exact TransitRecord.keepsSlots_refl _ _
    · exact forall₂_self (TransitRecord.keepsSlots_refl _) _
  · change (s.setSlot k v).slots[j] = _
    rw [State.setSlot_get, if_neg (Ne.symm hj)]
  · rw [slot, hvr u, List.filter_eq_nil_iff.2 fun x hx => by rw [left u x hx]; nofun]
    rfl
  · rw [left u x hx] at hin
    cases hin

/-- A finished probe is not AT-MEMORY (R151). -/
theorem State.finishProbe_not_atMemory (s : State) (code : ProbeCode) (values : List Beat) (q : ProbeRequest) :
    (s.finishProbe code values).probe ≠ .atMemory q := by
  rcases s.finishProbe_cases code values with ⟨hf, h⟩ | ⟨_, -, h⟩ <;> rw [h]
  · intro hq
    rw [hq] at hf
    cases hf
  · rw [State.place_probe]
    nofun

theorem State.SlotsKept.probeAnswered {s : State} (law : s.SlotsKept) {k : SlotIndex} {v : Slot}
    (hk : s.slots[k].holdsProbe = true) (hv : v.isBusy = false) (code : ProbeCode) (values : List Beat) :
    ((s.setSlot k v).finishProbe code values).SlotsKept := by
  obtain ⟨hvr, hvp, hvt⟩ := Slot.of_not_busy hv
  obtain ⟨q, hq⟩ := law.probe_of_slot hk
  have hframe := (s.setSlot k v).finishProbe_frame code values
  refine law.setSlot (k := k) (Slot.holdsRecord_of_probe hk) hvr hvt (by rw [hframe]; rfl) (by rw [hframe])
    (fun q hq => absurd hq (State.finishProbe_not_atMemory _ _ _ q)) fun _ => ?_
  have hcount := s.probeSlots_setSlot k v
  rw [law.probe q hq, hk, hvp] at hcount
  rw [hframe]
  exact Nat.succ_injective hcount

/-! ## Courses -/

theorem State.slotsKept_of_empty {s : State} (hr : ∀ t : Tag, s.records[t] = [])
    (hs : ∀ k : SlotIndex, s.slots[k] = .free) (hp : ∀ q, s.probe ≠ .atMemory q) : s.SlotsKept where
  records t k := by rw [hr, hs]; rfl
  issued t k r h := by rw [hr] at h; cases h
  probe q h := absurd h (hp q)
  noProbe _ := State.probeSlots_eq_zero fun k => by rw [hs]; rfl
  timers k := by rw [hs]; rfl

theorem Slot.tick_keeps (v : Slot) : (∀ t, v.tick.holdsRecord t = v.holdsRecord t) ∧ v.tick.holdsProbe = v.holdsProbe
    ∧ (∀ r, v.tick.issued r = v.issued r) ∧ (v.timerSound = true → v.tick.timerSound = true) := by
  cases v with
  | free | lingering => exact ⟨fun _ => rfl, rfl, fun _ => rfl, fun h => h⟩
  | busy o a n limit timer =>
    refine ⟨fun _ => by cases o <;> rfl, by cases o <;> rfl, fun _ => by cases o <;> rfl, fun h => ?_⟩
    cases timer with
    | none => exact h
    | some m =>
      simp only [Slot.timerSound, Slot.tick, Option.map_some, Bool.and_eq_true, decide_eq_true_eq] at h ⊢
      exact ⟨h.1, by omega⟩

theorem State.SlotsKept.tick {s : State} (law : s.SlotsKept) : s.tick.SlotsKept := by
  have slot : ∀ k : SlotIndex, s.tick.slots[k] = (s.slots[k] : Slot).tick := fun k => by simp [State.tick]
  have hcount : s.tick.probeSlots = s.probeSlots :=
    congrArg List.length (List.filter_congr fun k _ => by rw [slot, (Slot.tick_keeps _).2.1])
  refine ⟨fun t k => ?_, fun t k r hr hin => ?_, by rw [hcount]; exact law.probe, by rw [hcount]; exact law.noProbe,
    fun k => ?_⟩
  · rw [slot, (Slot.tick_keeps _).1]; exact law.records t k
  · rw [slot, (Slot.tick_keeps _).2.2.1]; exact law.issued t k r hr hin
  · rw [slot]; exact (Slot.tick_keeps _).2.2.2 (law.timers k)

/-- A slot that lingers where it held the probe (R96). -/
theorem Slot.linger_keeps {v w : Slot} (h : w = if v.holdsProbe then .lingering else v) :
    (∀ t, w.holdsRecord t = v.holdsRecord t) ∧ w.holdsProbe = false ∧ (∀ r, w.issued r = v.issued r)
      ∧ (v.timerSound = true → w.timerSound = true) := by
  subst h
  cases v with
  | free | lingering => exact ⟨fun _ => rfl, rfl, fun _ => rfl, fun h => h⟩
  | busy o a n limit timer =>
    cases o with
    | record => exact ⟨fun _ => rfl, rfl, fun _ => rfl, fun h => h⟩
    | probe => exact ⟨fun _ => rfl, rfl, fun _ => rfl, fun _ => rfl⟩

/-- The probe's slot lingers once the probe has left it (R96). -/
theorem State.SlotsKept.lingerProbe {s t : State} (law : s.SlotsKept) (hr : t.records = s.records)
    (hs : t.slots = lingerProbe s.slots) (hp : t.probe = .idle) : t.SlotsKept := by
  have slot : ∀ k : SlotIndex, t.slots[k] = if s.slots[k].holdsProbe then .lingering else s.slots[k] := fun k => by
    rw [hs]; simp [Machine.lingerProbe]
  refine ⟨fun u k => ?_, fun u k r hmem hin => ?_, by rw [hp]; nofun, fun _ => State.probeSlots_eq_zero fun k => ?_,
    fun k => ?_⟩
  · rw [(Slot.linger_keeps (slot k)).1, hr]; exact law.records u k
  · rw [(Slot.linger_keeps (slot k)).2.2.1]; exact law.issued u k r (hr ▸ hmem) hin
  · exact (Slot.linger_keeps (slot k)).2.1
  · exact (Slot.linger_keeps (slot k)).2.2.2 (law.timers k)

theorem State.Course.slotsKept {s₀ s : State} {due : Bool} (c : s₀.Course due s) (law : s₀.SlotsKept) :
    s.SlotsKept := by
  induction c with
  | start => exact law
  | alike c h ih => exact ih.frame (by rw [h]) (by rw [h]) (by rw [h])
  | gates c h ih => exact ih.gateWork h
  | lossy c e ih => exact ih.place e none
  | lossless c he hr h ih => exact ih.place _ _
  | @storeTaken _ s c l h ih => exact State.SlotsKept.refill (s := { s with store := l }) (ih.frame rfl rfl rfl)
  | @stallTaken _ s c pre post e h ih =>
    exact State.SlotsKept.unstall (s := { s with stalls := pre ++ post }) (ih.frame rfl rfl rfl) e.link
  | added c hs hl hi h ih =>
    refine ih.changeList (fun k => ?_) rfl rfl rfl
    rw [List.filter_append, List.filter_cons, h.inSlot k]
    exact List.append_nil _
  | delivered c hl ha hs ih =>
    refine ih.changeList (fun k => ?_) rfl rfl rfl
    rw [hl, List.filter_cons, TransitRecord.inSlot_of_answered ha]
    rfl
  | recordIssued c tag hk ih => exact ih.grantRecord hk tag
  | probeIssued c hk ih => exact ih.grantProbe hk
  | recordAnswered c hk hv hc ih => exact ih.answerRecord hk hv _ _
  | @slotLeft _ s c k v hv hk ih =>
    obtain ⟨hvr, hvp, hvt⟩ := Slot.of_not_busy hv
    have lingering : s.slots[k] = .lingering := by
      refine hk.resolve_right fun ⟨tag, htag, hn⟩ => ?_
      have := ih.records tag k
      rw [List.filter_eq_nil_iff.2 fun x hx => by rw [hn x hx]; nofun, if_pos htag] at this
      cases this
    have hcount := State.probeSlots_eq (s := s) (t := s.setSlot k v) rfl (by rw [hvp, lingering]; rfl)
    exact ih.setSlot (k := k) (by rw [lingering]; exact fun _ => rfl) hvr hvt rfl rfl
      (by rw [hcount]; exact ih.probe) (by rw [hcount]; exact ih.noProbe)
  | probeAnswered c hk hv hc ih => exact ih.probeAnswered hk hv _ _
  | probeQueued c hq hp hs ih =>
    refine ⟨ih.records, ih.issued, nofun, fun _ => ih.noProbe fun q h => ?_, ih.timers⟩
    rw [h] at hp
    cases hp
  | probeIdled c h ih => exact ⟨ih.records, ih.issued, nofun, fun _ => ih.noProbe h, ih.timers⟩
  | probeWithdrawn c ih => exact ih.lingerProbe rfl rfl rfl
  | ticked c ih => exact ih.tick
  | cleared c ih =>
    refine ih.of_records (fun u => ?_) rfl rfl
    simp only [State.clearConfiguration, Fin.getElem_fin, Vector.getElem_ofFn]
    exact forall₂_map fun r _ => ⟨rfl, rfl, fun _ _ => rfl⟩
  | asserted c holdboot ih =>
    refine State.slotsKept_of_empty (fun t => ?_) (fun k => ?_) (State.finishProbe_not_atMemory _ _ _)
    · rw [State.finishProbe_frame]; simp [State.discardTarget]
    · rw [State.finishProbe_frame]; simp [State.discardTarget]
  | entries | waitPended | waitCompleted | waitsFreed | released => rename_i ih; exact ih.frame rfl rfl rfl

/-- Settles O57: a course keeps the law, which speaks of neither the link nor the response channel. -/
theorem stepKeepsSlotLaw : Obligations.StepKeepsSlotLaw := by
  intro s t h law
  rw [State.slotLaw_iff] at law ⊢
  refine step_keeps (P := State.SlotsKept) ?_ ?_ (fun _ _ _ c => c.slotsKept) ?_ h law
  · intro s t h law; exact law.frame (by rw [h]) (by rw [h]) (by rw [h])
  · intro s law; exact law.frame (by rw [s.offerNext_frame]) (by rw [s.offerNext_frame]) (by rw [s.offerNext_frame])
  · intro _ _ _ _ _
    exact State.slotsKept_of_empty (fun t => by simp [State.powerOn]) (fun k => by simp [State.powerOn]) nofun

end Sys2Proof.Machine
end

section
/-! SUPPORT. The contents of records, probe and entries along courses (R5, R7, R16, R26, R27, R38, R53, R145), and
what an asserted SYSRST_N means along them (R24, R99, R124, R155). -/

namespace Sys2Proof.Machine

/-! ## One record -/

/-- The record's contents and answer stay sound. -/
def TransitRecord.KeepsContent (r r' : TransitRecord) : Prop :=
  r.ContentLaw ∧ r.AnswerLaw → r'.ContentLaw ∧ r'.AnswerLaw

/-- A record that is not ANSWERED was neither refused nor malformed (R7, R38). -/
theorem TransitRecord.ContentLaw.open {r : TransitRecord} (h : r.ContentLaw) (ha : r.isAnswered = false) :
    r.decision ≠ .malformed ∧ r.decision ≠ .refuse := by
  obtain ⟨-, -, -, hd, -⟩ := h
  exact ⟨fun hm => by simp [hd (.inl hm)] at ha, fun hr => by simp [hd (.inr hr)] at ha⟩

/-- Outside ANSWERED there is no answer to speak of. -/
theorem TransitRecord.answerLaw_of_not_answered {r : TransitRecord} (h : r.isAnswered = false) : r.AnswerLaw := by
  intro a ha
  unfold TransitRecord.answer? at ha
  split at ha
  · next hp => rw [← Bool.not_eq_true, TransitRecord.isAnswered_iff] at h; exact absurd ⟨_, hp⟩ h
  · cases ha

/-- A record that was not ANSWERED takes an answer other than REFUSED and MALFORMED. -/
theorem TransitRecord.keepsContent_answered {r : TransitRecord} (h : r.isAnswered = false) {code : AnswerCode}
    {values : List Beat} (hm : code ≠ .malformed) (hr : code ≠ .refused)
    (hz : code = .done ∨ ∀ x ∈ values, x = 0) : r.KeepsContent (r.answeredWith code values) := by
  rintro ⟨hc, -⟩
  obtain ⟨hdm, hdr⟩ := hc.open h
  obtain ⟨hw, hl, hn, -, -⟩ := hc
  exact ⟨⟨hw, hl, hn, fun _ => rfl, fun _ h => by simp [TransitRecord.answeredWith] at h⟩,
    TransitRecord.answerLaw_answeredWith (hw hdm) hdm hm ⟨fun h => absurd h hr, fun h => absurd h hdr⟩ hz⟩

/-- A record moves on to READY or AT-MEMORY past a hold that is spent. -/
theorem TransitRecord.keepsContent_phase {r : TransitRecord} (h : r.isAnswered = false) {p : Phase}
    (hp : TransitRecord.isAnswered { r with phase := p } = false)
    (hs : r.ContentLaw → r.decision = .holdBefore → r.spent = true) : r.KeepsContent { r with phase := p } := by
  rintro ⟨hc, -⟩
  obtain ⟨hdm, hdr⟩ := hc.open h
  have spent := hs hc
  obtain ⟨hw, hl, hn, -, -⟩ := hc
  exact ⟨⟨hw, hl, hn, fun hd => absurd hd (not_or.2 ⟨hdm, hdr⟩), fun hd _ => spent hd⟩,
    TransitRecord.answerLaw_of_not_answered hp⟩

/-- One patched beat with a byte enabled keeps a WRITE well-formed (R67). -/
theorem transferWellFormed_set {access : Access} {address : Addr} {n : Nat} {data : List WriteBeat} {w : WriteBeat}
    (h : transferWellFormed access address n data = true) (hw : w.enables ≠ 0) (k : Nat) :
    transferWellFormed access address n (data.set k w) = true := by
  simp only [transferWellFormed, Bool.and_eq_true, Bool.or_eq_true, List.all_eq_true] at h ⊢
  refine ⟨h.1, h.2.imp_right fun hd b hb => ?_⟩
  rcases List.mem_or_eq_of_mem_set hb with hb | rfl
  · exact hd b hb
  · simpa using hw

theorem TransitRecord.Moved.keepsContent {a : Bool} {r r' : TransitRecord} (h : TransitRecord.Moved a r r') :
    r.KeepsContent r' := by
  cases h with
  | kept => exact fun h => h
  | passed hg _ hh =>
    refine TransitRecord.keepsContent_phase (TransitRecord.not_answered_of_gated hg) rfl fun _ hd => ?_
    simpa [TransitRecord.holdsBefore, hd] using hh
  | spent hg =>
    rintro ⟨⟨hw, hl, hn, hd, -⟩, ha⟩
    exact ⟨⟨hw, hl, hn, hd, fun _ _ => rfl⟩, ha⟩
  | patched hg hwrite he k =>
    rintro ⟨hc, ha⟩
    obtain ⟨hdm, -⟩ := hc.open (TransitRecord.not_answered_of_gated hg)
    obtain ⟨hw, hl, hn, hd, hs⟩ := hc
    exact ⟨⟨fun h => transferWellFormed_set (hw h) he k, fun h h' => (List.length_set).trans (hl h h'),
      fun h => absurd h (not_or.2 ⟨by rw [TransitRecord.patched, hwrite]; nofun, hdm⟩), hd, hs⟩, ha⟩
  | answered _ hg hf =>
    refine TransitRecord.keepsContent_answered (TransitRecord.not_answered_of_gated hg) ?_ ?_ ?_
    · rcases hf with rfl | ⟨rfl, -⟩ <;> nofun
    · rcases hf with rfl | ⟨rfl, -⟩ <;> nofun
    · exact hf.imp_right fun h => by simp [h.2]

/-! ## Records along courses -/

theorem State.RecordLaw.of_records {s t : State} (law : s.RecordLaw)
    (h : ∀ u : Tag, List.Forall₂ TransitRecord.KeepsContent s.records[u] t.records[u]) : t.RecordLaw := by
  intro u r' hr'
  obtain ⟨r, hr, hk⟩ := exists_of_forall₂_mem (h u) hr'
  exact hk (law u r hr)

theorem State.RecordLaw.setRecords {s : State} (law : s.RecordLaw) {tag : Tag} {l : List TransitRecord}
    (h : ∀ r ∈ l, r.ContentLaw ∧ r.AnswerLaw) : (s.setRecords tag l).RecordLaw := by
  intro u
  rw [State.setRecords_get]
  split
  · exact h
  · exact law u

theorem State.RecordLaw.change {s : State} (law : s.RecordLaw) {tag : Tag} {l : List TransitRecord}
    (h : List.Forall₂ TransitRecord.KeepsContent s.records[tag] l) : (s.setRecords tag l).RecordLaw :=
  law.setRecords fun r' hr' => by
    obtain ⟨r, hr, hk⟩ := exists_of_forall₂_mem h hr'
    exact hk (law tag r hr)

theorem State.RecordLaw.gateWork {a : Bool} {s t : State} (law : s.RecordLaw) (h : s.GateWork a t) : t.RecordLaw :=
  law.of_records fun u => (h.moved u).imp fun _ _ hm => hm.keepsContent

theorem State.RecordLaw.markStall {s : State} (law : s.RecordLaw) (l : RecordLink) (b : Bool) :
    (s.markStall l b).RecordLaw :=
  law.change (forall₂_map fun r _ => by split <;> exact fun h => h)

theorem State.RecordLaw.unstall {s : State} (law : s.RecordLaw) (l : RecordLink) : (s.unstall l).RecordLaw :=
  State.RecordLaw.gateWork (a := false) (law.markStall l false) (.consider _ l.tag)

theorem State.RecordLaw.place {s : State} (law : s.RecordLaw) (e : Event) (l : Option RecordLink) :
    (s.place e l).RecordLaw := by
  rcases s.place_cases e l with ⟨_, _, _, -, -, -, h⟩ | ⟨-, ⟨-, h⟩ | ⟨-, ⟨k, -, h⟩ | ⟨-, h⟩⟩⟩ <;> rw [h]
  · exact law
  · exact law
  · exact State.RecordLaw.markStall (by exact law) k true
  · exact law

theorem State.RecordLaw.refill {s : State} (law : s.RecordLaw) : s.refill.RecordLaw :=
  State.refill_induction (P := State.RecordLaw) (fun s e rest law _ _ => State.RecordLaw.unstall
    (s := ({ s with stalls := rest } : State).deliverToStore e.event) law e.link) law

theorem State.recordLaw_of_empty {s : State} (h : ∀ t : Tag, s.records[t] = []) : s.RecordLaw := by
  intro t r hr
  rw [h] at hr
  cases hr

theorem State.Course.recordLaw {s₀ s : State} {due : Bool} (c : s₀.Course due s) (law : s₀.RecordLaw) :
    s.RecordLaw := by
  induction c with
  | start => exact law
  | alike c h ih => rw [h]; exact ih
  | gates c h ih => exact ih.gateWork h
  | lossy c e ih => exact ih.place e none
  | lossless c he hr h ih => exact ih.place _ _
  | @storeTaken _ s c l h ih => exact State.RecordLaw.refill (s := { s with store := l }) ih
  | @stallTaken _ s c pre post e h ih =>
    exact State.RecordLaw.unstall (s := { s with stalls := pre ++ post }) ih e.link
  | @added _ s c tag r hs hl hi h ih =>
    refine State.RecordLaw.setRecords ih fun x hx => ?_
    rcases List.mem_append.1 hx with hx | hx
    · exact ih tag x hx
    · obtain rfl := List.mem_singleton.1 hx
      exact ⟨h.content, h.answer⟩
  | delivered c hl ha hs ih =>
    exact State.RecordLaw.setRecords ih fun x hx => ih _ x (by rw [hl]; exact List.mem_cons_of_mem _ hx)
  | @recordIssued _ s c k tag hk ih =>
    rcases s.grantRecord_cases k tag with h | ⟨r, -, request, h⟩ <;> rw [h]
    · exact ih
    · refine State.RecordLaw.change ih (forall₂_onFirst (fun _ h => h) fun x hx => ?_)
      have ready : x.isReady = true := List.find?_some hx
      have not_answered : x.isAnswered = false := by
        rw [TransitRecord.isReady_iff] at ready
        rw [← Bool.not_eq_true, TransitRecord.isAnswered_iff, ready]
        nofun
      exact TransitRecord.keepsContent_phase not_answered rfl fun hc hd => hc.2.2.2.2 hd (.inl ready)
  | probeIssued c hk ih =>
    rcases State.grantProbe_cases _ _ with h | ⟨q, -, request, h⟩ <;> rw [h] <;> exact ih
  | @recordAnswered _ s c k tag v code values hk hv hc ih =>
    refine State.RecordLaw.change (s := s.setSlot k v) ih (forall₂_map fun r _ => ?_)
    split
    · next hin =>
      have not_answered : r.isAnswered = false := by
        rw [TransitRecord.inSlot_iff] at hin
        rw [← Bool.not_eq_true, TransitRecord.isAnswered_iff, hin]
        nofun
      refine TransitRecord.keepsContent_answered not_answered ?_ ?_ (hc.imp_right And.right)
      · rcases hc with rfl | ⟨rfl | rfl, -⟩ <;> nofun
      · rcases hc with rfl | ⟨rfl | rfl, -⟩ <;> nofun
    · exact fun h => h
  | probeAnswered c hk hv hc ih => rw [State.finishProbe_frame]; exact ih
  | cleared c ih =>
    refine ih.of_records fun u => ?_
    simp only [State.clearConfiguration, Fin.getElem_fin, Vector.getElem_ofFn]
    exact forall₂_map fun r _ h => h
  | asserted c holdboot ih =>
    rw [State.finishProbe_frame]
    exact State.recordLaw_of_empty fun t => by simp [State.discardTarget]
  | entries | waitPended | waitCompleted | waitsFreed | slotLeft | probeQueued | probeIdled | probeWithdrawn
  | ticked | released => assumption

/-! ## The probe and the entries along courses -/

/-- The probe ends with one zero value per beat of a READ, or with the values of an OK answer (R89, R151, R155). -/
theorem State.ProbeLaw.finishProbe {s : State} (law : s.ProbeLaw) {code : ProbeCode} {values : List Beat}
    (hc : code = .done ∨ values = []) : (s.finishProbe code values).ProbeLaw := by
  rcases s.finishProbe_cases code values with ⟨-, h⟩ | ⟨q, hq, h⟩ <;> rw [h]
  · exact law
  · unfold State.ProbeLaw
    rw [State.place_probe]
    have hs := law q (by rcases hq with hq | hq <;> rw [hq] <;> rfl)
    intro p hp
    obtain rfl : q = p := Option.some.inj hp
    refine ⟨hs.1, hs.2.1, fun d hd => ?_⟩
    cases hd
    exact ⟨answerData_length _ _ _, hc.imp_right fun h => answerData_zeros (by simp [h])⟩

theorem State.Course.probeLaw {s₀ s : State} {due : Bool} (c : s₀.Course due s) (law : s₀.ProbeLaw) :
    s.ProbeLaw := by
  induction c with
  | start => exact law
  | alike c h ih => rw [h]; exact ih
  | gates c h ih => rw [h.frame]; exact ih
  | lossy | lossless => unfold State.ProbeLaw; rw [State.place_probe]; assumption
  | storeTaken c l h ih => rw [State.refill_frame]; exact ih
  | @recordIssued _ s c k tag hk ih =>
    rcases s.grantRecord_cases k tag with h | ⟨r, -, request, h⟩ <;> rw [h] <;> exact ih
  | @probeIssued _ s c k hk ih =>
    rcases s.grantProbe_cases k with h | ⟨q, hq, request, h⟩ <;> rw [h]
    · exact ih
    · intro p hp
      obtain rfl : q = p := Option.some.inj hp
      have := ih q (by rw [hq]; rfl)
      exact ⟨this.1, this.2.1, nofun⟩
  | probeAnswered c hk hv hc ih => exact State.ProbeLaw.finishProbe (by exact ih) hc
  | probeQueued c hq hp hs ih =>
    intro p hp
    cases hp
    exact ⟨hq.1, hq.2, nofun⟩
  | asserted c holdboot ih => exact State.ProbeLaw.finishProbe (by exact ih) (.inr rfl)
  | probeIdled | probeWithdrawn => nofun
  | entries | stallTaken | waitPended | waitCompleted | waitsFreed | added | delivered | recordAnswered | slotLeft
  | ticked | cleared | released => assumption

theorem entryLaw_powerOn (i : WatchIndex) : EntryContentLaw i (Vector.replicate 16 WatchEntry.powerOn)[i] := by
  simpa using entryContentLaw_powerOn i

theorem State.Course.entryLaw {s₀ s : State} {due : Bool} (c : s₀.Course due s) (law : s₀.EntryLaw) :
    s.EntryLaw := by
  induction c with
  | start => exact law
  | alike c h ih => rw [h]; exact ih
  | gates c h ih => rw [h.frame]; exact ih
  | entries c v h ih => exact fun i => h i (ih i)
  | lossy | lossless => unfold State.EntryLaw; rw [State.place_entries]; assumption
  | storeTaken c l h ih => rw [State.refill_frame]; exact ih
  | @recordIssued _ s c k tag hk ih =>
    rcases s.grantRecord_cases k tag with h | ⟨r, -, request, h⟩ <;> rw [h] <;> exact ih
  | @probeIssued _ s c k hk ih =>
    rcases s.grantProbe_cases k with h | ⟨q, hq, request, h⟩ <;> rw [h] <;> exact ih
  | probeAnswered c hk hv hc ih => rw [State.finishProbe_frame]; exact ih
  | asserted c holdboot ih => rw [State.finishProbe_frame]; exact ih
  | cleared => exact entryLaw_powerOn
  | stallTaken | waitPended | waitCompleted | waitsFreed | added | delivered | recordAnswered | slotLeft
  | probeQueued | probeIdled | probeWithdrawn | ticked | released => assumption

end Sys2Proof.Machine
end

section
/-! SUPPORT. What an asserted SYSRST_N means along courses (R24, R99, R124, R155). -/

namespace Sys2Proof.Machine

/-- Nothing is in the part that an assertion of SYSRST_N discards. -/
structure State.Quiet (s : State) : Prop where
  records : ∀ t : Tag, s.records[t] = []
  stalls : s.stalls = []
  slots : ∀ k : SlotIndex, s.slots[k] = .free
  timers : ∀ t : Tag, s.gates[t].timer = none
  probe : s.probe.inFlight = false

theorem State.assertionLaw_iff {s : State} : s.AssertionLaw ↔ (s.sysrst = true → s.Quiet) :=
  ⟨fun h hs => ⟨(h hs).1, (h hs).2.1, (h hs).2.2.1, (h hs).2.2.2.1, (h hs).2.2.2.2⟩,
    fun h hs => ⟨(h hs).1, (h hs).2, (h hs).3, (h hs).4, (h hs).5⟩⟩

theorem State.Quiet.gateWork {a : Bool} {s t : State} (q : s.Quiet) (h : s.GateWork a t) : t.Quiet where
  records u := by
    have := h.moved u
    rw [q.records u] at this
    exact List.forall₂_nil_left_iff.1 this
  stalls := by rw [h.frame]; exact q.stalls
  slots k := by rw [h.frame]; exact q.slots k
  timers u := h.timer u (q.records u) (q.timers u)
  probe := by rw [h.frame]; exact q.probe

/-- Whatever writes none of the discarded parts keeps them empty. -/
theorem State.Quiet.frame {s t : State} (q : s.Quiet) (hr : t.records = s.records) (hs : t.stalls = s.stalls)
    (hk : t.slots = s.slots) (hg : t.gates = s.gates) (hp : t.probe = s.probe) : t.Quiet :=
  ⟨by simpa only [hr] using q.records, by rw [hs]; exact q.stalls, by simpa only [hk] using q.slots,
    by simpa only [hg] using q.timers, by rw [hp]; exact q.probe⟩

theorem State.Quiet.lossy {s : State} (q : s.Quiet) (e : Event) : (s.place e none).Quiet :=
  q.frame (s.place_lossy e).1 (s.place_lossy e).2 (State.place_slots _ _ _) (State.place_gates _ _ _)
    (State.place_probe _ _ _)

theorem State.finishProbe_not_inFlight (s : State) (code : ProbeCode) (values : List Beat) :
    (s.finishProbe code values).probe.inFlight = false := by
  rcases s.finishProbe_cases code values with ⟨hf, h⟩ | ⟨_, -, h⟩ <;> rw [h]
  · exact hf
  · rw [State.place_probe]; rfl

theorem State.quiet_powerOn (holdboot sysrstLow lcsLow : Bool) (waiting : List Instr) (pins : List PinChange) :
    (State.powerOn holdboot sysrstLow lcsLow waiting pins).Quiet where
  records t := by simp [State.powerOn]
  stalls := rfl
  slots k := by simp [State.powerOn]
  timers t := by simp [State.powerOn, Gate.powerOn]
  probe := rfl

/-- An assertion discards the target-related state and ends a probe in flight (R23, R99, R155). -/
theorem State.quiet_asserted (s : State) (holdboot : Bool) :
    ((s.discardTarget holdboot).finishProbe .targetReset []).Quiet where
  records t := by rw [State.finishProbe_frame]; simp [State.discardTarget]
  stalls := by rw [State.finishProbe_frame]; rfl
  slots k := by rw [State.finishProbe_frame]; simp [State.discardTarget]
  timers t := by rw [State.finishProbe_frame]; simp [State.discardTarget, Gate.systemReset, Gate.leaveClosed]
  probe := State.finishProbe_not_inFlight _ _ _

theorem State.Quiet.tick {s : State} (q : s.Quiet) : s.tick.Quiet where
  records := q.records
  stalls := q.stalls
  slots k := by
    have := q.slots k
    rw [Fin.getElem_fin] at this
    simp [State.tick, this, Slot.tick]
  timers t := by
    have := q.timers t
    rw [Fin.getElem_fin] at this
    simp [State.tick, Gate.tick, this]
  probe := q.probe

theorem State.Quiet.clear {s : State} (q : s.Quiet) : s.clearConfiguration.Quiet where
  records t := by
    have := q.records t
    rw [Fin.getElem_fin] at this
    simp [State.clearConfiguration, this]
  stalls := rfl
  slots := q.slots
  timers t := by simp [State.clearConfiguration, Gate.cleared]
  probe := q.probe

theorem State.Course.quiet {s₀ s : State} {due : Bool} (c : s₀.Course due s)
    (law : s₀.sysrst = true → s₀.Quiet) : s.sysrst = true → s.Quiet := by
  induction c with
  | start => exact law
  | alike c h ih =>
    intro hs
    rw [h] at hs
    exact (ih hs).frame (by rw [h]) (by rw [h]) (by rw [h]) (by rw [h]) (by rw [h])
  | gates c h ih =>
    intro hs
    rw [h.frame] at hs
    exact (ih hs).gateWork h
  | lossy c e ih => exact fun hs => (ih (by simpa using hs)).lossy e
  | lossless c he hr h ih => exact fun hs => absurd ((ih (by simpa using hs)).records _) hr
  | @storeTaken _ s c l h ih =>
    intro hs
    rw [State.refill_frame] at hs
    rw [State.refill_of_nil (s := { s with store := l }) (ih hs).stalls]
    exact (ih hs).frame rfl rfl rfl rfl rfl
  | stallTaken c h ih => exact fun hs => absurd (h.symm.trans (ih hs).stalls) (by simp)
  | added c hs' hl hi h ih => exact fun hs => absurd (hs'.symm.trans hs) nofun
  | delivered c hl ha hs' ih => exact fun hs => absurd (hl.symm.trans ((ih hs).records _)) nofun
  | @recordIssued _ s c k tag hk ih =>
    rcases s.grantRecord_cases k tag with h | ⟨r, hr, request, h⟩ <;> rw [h]
    · exact ih
    · intro hs
      rw [(ih hs).records tag] at hr
      cases hr
  | @probeIssued _ s c k hk ih =>
    rcases s.grantProbe_cases k with h | ⟨q, hq, request, h⟩ <;> rw [h]
    · exact ih
    · intro hs
      have := (ih hs).probe
      rw [hq] at this
      cases this
  | recordAnswered c hk hv hc ih =>
    intro hs
    rw [(ih hs).slots] at hk
    cases hk
  | slotLeft c hv hk ih =>
    intro hs
    rw [(ih hs).slots] at hk
    rcases hk with hk | ⟨_, hk, -⟩ <;> cases hk
  | probeAnswered c hk hv hc ih =>
    intro hs
    rw [State.finishProbe_frame] at hs
    rw [(ih hs).slots] at hk
    cases hk
  | probeQueued c hq hp hs' ih => exact fun hs => absurd (hs'.symm.trans hs) nofun
  | probeIdled c h ih => exact fun hs => ⟨(ih hs).records, (ih hs).stalls, (ih hs).slots, (ih hs).timers, rfl⟩
  | probeWithdrawn c ih =>
    refine fun hs => ⟨(ih hs).records, (ih hs).stalls, fun k => ?_, (ih hs).timers, rfl⟩
    have := (ih hs).slots k
    rw [Fin.getElem_fin] at this
    simp [lingerProbe, this, Slot.holdsProbe]
  | ticked c ih => exact fun hs => (ih hs).tick
  | cleared c ih => exact fun hs => (ih hs).clear
  | asserted c holdboot ih => exact fun _ => State.quiet_asserted _ holdboot
  | released c ih => nofun
  | entries | waitPended | waitCompleted | waitsFreed =>
    rename_i ih
    exact fun hs => (ih hs).frame rfl rfl rfl rfl rfl

/-- Settles O59: a course keeps the law, which speaks of neither the link nor the response channel. -/
theorem stepKeepsAssertionLaw : Obligations.StepKeepsAssertionLaw := by
  intro s t h law
  rw [State.assertionLaw_iff] at law ⊢
  refine step_keeps (P := fun s => s.sysrst = true → s.Quiet) ?_ ?_ (fun _ _ _ c => c.quiet)
    (fun _ _ _ _ _ _ => State.quiet_powerOn _ _ _ _ _) h law
  · intro s t h q hs
    rw [h] at hs
    exact (q hs).frame (by rw [h]) (by rw [h]) (by rw [h]) (by rw [h]) (by rw [h])
  · intro s q hs
    rw [s.offerNext_frame] at hs ⊢
    exact (q hs).frame rfl rfl rfl rfl rfl

end Sys2Proof.Machine
end

section
/-! SUPPORT. The service link along courses, commands, pin changes and steps (R157, R159, R160, R164). -/

namespace Sys2Proof.Machine

/-! ## Frames -/

/-- Where the register's top bit is the message bit, the register shifts (R160). -/
theorem crcBit_of_msb {reg : Byte} {bit : Bool} (h : reg.msb = bit) : crcBit reg bit = reg <<< 1 := by
  simp [crcBit, h]

/-- The CRC of a frame, taken as one more byte, shifts every bit out of the register (R160). -/
theorem crcByte_self (b : Byte) : crcByte b b = 0 := by
  have shift (j : Nat) (hj : j < 8) : crcBit (b <<< j) (b.getLsbD (7 - j)) = b <<< (j + 1) := by
    have top : (b <<< j).msb = b.getLsbD (7 - j) := by
      rw [BitVec.msb_eq_getLsbD_last, BitVec.getLsbD_shiftLeft]
      simp [show ¬ 7 < j by omega]
    rw [crcBit_of_msb top, BitVec.shiftLeft_add]
  have first : crcBit b (b.getLsbD 7) = b <<< 1 := by simpa using shift 0 (by decide)
  simp only [crcByte, List.foldl_cons, List.foldl_nil]
  rw [first, shift 1 (by decide), shift 2 (by decide), shift 3 (by decide), shift 4 (by decide), shift 5 (by decide),
    shift 6 (by decide), shift 7 (by decide)]
  exact BitVec.shiftLeft_eq_zero (Nat.le_refl 8)

/-- The contents of a held frame (R160, R164). -/
def FrameSound (f : List Byte) : Prop :=
  3 ≤ f.length ∧ f.length ≤ 163 ∧ f[0]? ≠ some 0xFF ∧ f[1]? = some (BitVec.ofNat 8 (f.length - 3)) ∧ crc8 f = 0x00

theorem frameSound_frame {head : Byte} {payload : List Byte} (hh : head ≠ 0xFF) (hp : payload.length ≤ 160) :
    FrameSound (frame head payload) := by
  refine ⟨by simp [frame], by simp [frame]; omega, by simpa [frame] using hh, by simp [frame, byteOf], ?_⟩
  simp only [frame, crc8, List.foldl_append, List.foldl_cons, List.foldl_nil]
  exact crcByte_self _

theorem Status.code_ne (status : Status) : status.code ≠ 0xFF := by cases status <;> decide

theorem Reply.frameSound {r : Reply} (h : r.Fits) : FrameSound r.frame := by
  cases r with
  | ok payload => exact frameSound_frame Status.ok.code_ne h
  | refuse status => exact frameSound_frame status.code_ne (Nat.zero_le _)

/-! ## The law in parts -/

/-- A period in progress, with the link around it (R157, R159). -/
structure State.PeriodKept (s : State) (p : LinkPeriod) : Prop where
  powered : s.powered = true
  selected : s.clkRunning = true → s.lcsLow = true
  bits : p.bits.length < 8
  shown : p.shown < 8
  index : p.index ≤ p.received.length
  request : p.received ≠ [] → p.received[0]? ≠ some 0xFF →
    s.held = .none ∧ s.requestBuffer = p.received.take 163 ∧ s.requestCount = p.received.length

/-- The law of the link in parts: the held frame, the request buffer, and a period in progress. -/
structure State.LinkKept (s : State) : Prop where
  held : ∀ f ∈ s.held.frame?, FrameSound f
  buffer : s.requestBuffer.length = min 163 s.requestCount
  period : ∀ p ∈ s.period, s.PeriodKept p

theorem State.linkLaw_iff {s : State} : s.LinkLaw ↔ s.LinkKept :=
  ⟨fun ⟨hf, hb, hp⟩ => ⟨hf, hb, fun p h => by
      obtain ⟨h1, h2, h3, h4, h5, h6⟩ := hp p h
      exact ⟨h1, h2, h3, h4, h5, h6⟩⟩,
    fun ⟨hf, hb, hp⟩ => ⟨hf, hb, fun p h => by
      obtain ⟨h1, h2, h3, h4, h5, h6⟩ := hp p h
      exact ⟨h1, h2, h3, h4, h5, h6⟩⟩⟩

/-- Outside a period the law is about the held frame and the request buffer. -/
theorem State.linkKept_of_none {s : State} (hp : s.period = none) (hf : ∀ f ∈ s.held.frame?, FrameSound f)
    (hb : s.requestBuffer.length = min 163 s.requestCount) : s.LinkKept :=
  ⟨hf, hb, fun _ h => absurd (hp ▸ h) nofun⟩

/-! ## The blocks leave the link alone -/

/-- The part of the state that the law of the link speaks of. -/
def State.link (s : State) : Bool × Bool × Bool × Option LinkPeriod × HeldResponse × List Byte × Nat :=
  (s.powered, s.clkRunning, s.lcsLow, s.period, s.held, s.requestBuffer, s.requestCount)

theorem State.LinkKept.of_link {s t : State} (law : s.LinkKept) (h : t.link = s.link) : t.LinkKept := by
  simp only [State.link, Prod.mk.injEq] at h
  obtain ⟨h1, h2, h3, h4, h5, h6, h7⟩ := h
  refine ⟨h5 ▸ law.held, by rw [h6, h7]; exact law.buffer, fun p hp => ?_⟩
  have kept := law.period p (h4 ▸ hp)
  exact ⟨h1.trans kept.powered, fun h => h3.trans (kept.selected (h2 ▸ h)), kept.bits, kept.shown, kept.index,
    fun h h' => by rw [h5, h6, h7]; exact kept.request h h'⟩

theorem State.place_link (s : State) (e : Event) (l : Option RecordLink) : (s.place e l).link = s.link := by
  rw [s.place_frame]; rfl

theorem State.Course.link {s₀ s : State} {due : Bool} (c : s₀.Course due s) : s.link = s₀.link := by
  induction c with
  | start => rfl
  | alike c h ih => rw [h]; exact ih
  | gates c h ih => rw [h.frame]; exact ih
  | lossy | lossless => rw [State.place_link]; assumption
  | storeTaken c l h ih => rw [State.refill_frame]; exact ih
  | @recordIssued _ s c k tag hk ih =>
    rcases s.grantRecord_cases k tag with h | ⟨r, -, request, h⟩ <;> rw [h] <;> exact ih
  | @probeIssued _ s c k hk ih =>
    rcases s.grantProbe_cases k with h | ⟨q, hq, request, h⟩ <;> rw [h] <;> exact ih
  | probeAnswered c hk hv hc ih => rw [State.finishProbe_frame]; exact ih
  | asserted c holdboot ih => rw [State.finishProbe_frame]; exact ih
  | entries | stallTaken | waitPended | waitCompleted | waitsFreed | added | delivered | recordAnswered | slotLeft
  | probeQueued | probeIdled | probeWithdrawn | ticked | cleared | released => assumption

theorem State.Leads.link {s t : State} (h : s.Leads t) : t.link = s.link := by
  rcases h with ⟨c, h⟩ | @⟨_, u, c, h⟩ <;> rw [h]
  · exact c.link
  · rw [u.offerNext_frame]; exact c.link

/-! ## Commands -/

/-- Where the link can take a whole period none is in progress (R157). -/
theorem State.LinkKept.period_none {s : State} (law : s.LinkKept) (h : s.takesPeriods = true) :
    s.period = none := by
  rw [State.takesPeriods_iff, State.takesEvents_iff] at h
  cases hp : s.period with
  | none => rfl
  | some p => exact absurd ((law.period p hp).selected h.1.2) (by simp [h.2])

/-- The end of a taken period (R159, R165). -/
theorem State.LinkKept.endPeriod {s t : State} (law : s.LinkKept) (ht : t.link = s.link)
    (hs : s.takesPeriods = true) (bytes : List Byte) {held : HeldResponse}
    (hh : ∀ f ∈ held.frame?, FrameSound f) : (t.endPeriod bytes held).LinkKept := by
  have hp : t.period = s.period := by simp only [State.link, Prod.mk.injEq] at ht; exact ht.2.2.2.1
  exact State.linkKept_of_none (hp.trans (law.period_none hs)) hh (by simp [State.endPeriod])

/-- Whatever makes of the held response only itself, READY or NONE keeps the law. -/
theorem State.LinkKept.setHeld {s t : State} (law : s.LinkKept) (h : t.link = { s with held := t.held }.link)
    (hf : ∀ f ∈ t.held.frame?, f ∈ s.held.frame?) (hn : s.held = .none → t.held = .none) : t.LinkKept := by
  refine State.LinkKept.of_link (s := { s with held := t.held }) ⟨fun f h => law.held f (hf f h), law.buffer,
    fun p hp => ?_⟩ h
  have kept := law.period p hp
  exact ⟨kept.powered, kept.selected, kept.bits, kept.shown, kept.index, fun h h' =>
    ⟨hn (kept.request h h').1, (kept.request h h').2⟩⟩

theorem HeldResponse.frame_afterRead {h : HeldResponse} {n : Nat} {k : Option Nat} {f : List Byte}
    (hf : f ∈ (h.afterRead n k).frame?) : f ∈ h.frame? := by
  unfold HeldResponse.afterRead at hf
  split at hf
  · split at hf
    · cases hf
    · exact hf
  · split at hf
    · cases hf
    · split at hf <;> exact hf
  · exact hf

theorem HeldResponse.frame_built {h : HeldResponse} {f : List Byte} (hf : f ∈ h.built.frame?) : f ∈ h.frame? := by
  unfold HeldResponse.built at hf
  split at hf <;> exact hf

theorem State.Runs.linkKept {s t : State} (h : s.Runs (.next t)) (capacity : s.CapacityLaw) (probe : s.ProbeLaw)
    (law : s.LinkKept) : t.LinkKept := by
  cases h with
  | idle => exact law
  | occurs h => exact law.of_link h.link
  | requests hs h bytes =>
    refine law.endPeriod h.leads.link hs bytes fun f hf => ?_
    cases hf
    exact Reply.frameSound (h.fits capacity probe)
  | refuses hs bytes status =>
    refine law.endPeriod rfl hs bytes fun f hf => ?_
    cases hf
    exact Reply.frameSound (r := .refuse status) trivial
  | reads n k => exact law.setHeld rfl (fun _ => HeldResponse.frame_afterRead) fun h => by simp only [h]; rfl
  | builds => exact law.setHeld rfl (fun _ => HeldResponse.frame_built) fun h => by simp only [h]; rfl
  | powersOn | losesPower => exact State.linkKept_of_none rfl nofun rfl

/-! ## Pins -/

theorem State.LinkKept.begin {s : State} (law : s.LinkKept) (h : s.takesEvents = true) :
    State.LinkKept { s with lcsLow := true, period := some .begun } := by
  refine ⟨law.held, law.buffer, fun p hp => ?_⟩
  cases hp
  exact ⟨(State.takesEvents_iff.1 h).1, fun _ => rfl, by decide, by decide, Nat.le_refl _, fun h => absurd rfl h⟩

/-- The level of LCS_N or CLK changes and the period goes on, where its law allows it. -/
theorem State.LinkKept.setLevels {s : State} (law : s.LinkKept) (clk lcs : Bool)
    (h : s.powered = true → s.period ≠ none → clk = true → lcs = true) :
    State.LinkKept { s with clkRunning := clk, lcsLow := lcs } := by
  refine ⟨law.held, law.buffer, fun p hp => ?_⟩
  have kept := law.period p hp
  exact ⟨kept.powered, h kept.powered (by rw [hp]; nofun), kept.bits, kept.shown, kept.index, kept.request⟩

theorem LinkPeriod.heldAfterByte_frame {p : LinkPeriod} {held : HeldResponse} {f : List Byte}
    (hf : f ∈ (p.heldAfterByte held).frame?) : f ∈ held.frame? := by
  unfold LinkPeriod.heldAfterByte at hf
  split at hf
  · split at hf
    · cases hf
    · exact hf
  · exact hf

theorem State.LinkKept.byteComplete {s : State} (law : s.LinkKept) {p : LinkPeriod} (hp : s.period = some p)
    (b : Byte) : (s.byteComplete p b).LinkKept := by
  have kept := law.period p hp
  obtain ⟨hcases, hperiod⟩ := s.byteComplete_cases p b
  generalize s.byteComplete p b = t at hcases hperiod
  have goes_on (h1 : t.powered = s.powered) (h2 : t.clkRunning = s.clkRunning) (h3 : t.lcsLow = s.lcsLow)
      (hreq : (p.received ++ [b])[0]? ≠ some 0xFF → t.held = .none
        ∧ t.requestBuffer = (p.received ++ [b]).take 163 ∧ t.requestCount = (p.received ++ [b]).length) :
      ∀ q ∈ t.period, t.PeriodKept q := by
    intro q hq
    rw [hperiod] at hq
    cases hq
    exact ⟨h1.trans kept.powered, fun h => h3.trans (kept.selected (h2 ▸ h)), Nat.zero_lt_succ 7, kept.shown,
      kept.index.trans (by simp), fun _ => hreq⟩
  rcases hcases with ⟨hn, rfl, ht⟩ | ⟨hn, hb, ht⟩ | ⟨hn, hread, ht⟩ | ⟨hn, hread, ht⟩
  · refine ⟨by rw [ht]; exact law.held, by rw [ht]; exact law.buffer, goes_on ?_ ?_ ?_ ?_⟩
    · rw [ht]
    · rw [ht]
    · rw [ht]
    · rw [hn]; exact fun h => absurd rfl h
  · refine ⟨by rw [ht]; nofun, by rw [ht]; rfl, goes_on ?_ ?_ ?_ ?_⟩
    · rw [ht]
    · rw [ht]
    · rw [ht]
    · rw [ht, hn]; exact fun _ => ⟨rfl, rfl, rfl⟩
  · refine ⟨by rw [ht]; exact fun f hf => law.held f (LinkPeriod.heldAfterByte_frame hf),
      by rw [ht]; exact law.buffer, goes_on ?_ ?_ ?_ ?_⟩
    · rw [ht]
    · rw [ht]
    · rw [ht]
    · intro h
      refine absurd ?_ h
      rw [LinkPeriod.isRead, beq_iff_eq, List.head?_eq_getElem?] at hread
      rwa [List.getElem?_append_left (List.length_pos_iff.2 hn)]
  · have head : p.received[0]? ≠ some 0xFF := by
      rwa [LinkPeriod.isRead, beq_eq_false_iff_ne, List.head?_eq_getElem?] at hread
    obtain ⟨hheld, hbuf, hcount⟩ := kept.request hn head
    have buffer : (s.requestBuffer ++ [b]).take 163 = (p.received ++ [b]).take 163 := by
      rw [hbuf, List.take_append, List.take_append, List.take_take, List.length_take]
      congr 2
      omega
    refine ⟨by rw [ht]; exact law.held, ?_, goes_on ?_ ?_ ?_ ?_⟩
    · rw [ht]
      change ((s.requestBuffer ++ [b]).take 163).length = min 163 (s.requestCount + 1)
      rw [buffer, hcount]
      simp
    · rw [ht]
    · rw [ht]
    · rw [ht]
    · rw [ht]
      exact fun _ => ⟨hheld, buffer, by simp [hcount]⟩

theorem State.LinkKept.lckRise {s : State} (law : s.LinkKept) (ldi : Bool) : (s.lckRise ldi).LinkKept := by
  cases hp : s.period with
  | none => rw [State.lckRise_of_none hp]; exact law
  | some p =>
    by_cases hb : p.bits.length < 7
    · rw [State.lckRise_bit hp hb]
      refine ⟨law.held, law.buffer, fun q hq => ?_⟩
      cases hq
      have kept := law.period p hp
      exact ⟨kept.powered, kept.selected, by simpa using Nat.succ_lt_succ hb, kept.shown, kept.index, kept.request⟩
    · rw [State.lckRise_byte hp (Nat.not_lt.1 hb)]
      exact law.byteComplete hp _

theorem State.LinkKept.lckFall {s : State} (law : s.LinkKept) :
    State.LinkKept { s with period := s.period.map (·.lckFall s.held) } := by
  refine ⟨law.held, law.buffer, fun q hq => ?_⟩
  obtain ⟨p, hp, rfl⟩ := Option.map_eq_some_iff.1 hq
  have kept := law.period p hp
  by_cases hi : p.index < p.received.length
  · rw [LinkPeriod.lckFall_next hi]
    exact ⟨kept.powered, kept.selected, kept.bits, kept.bits, Nat.le_refl _, kept.request⟩
  · rw [LinkPeriod.lckFall_within (Nat.not_lt.1 hi)]
    exact ⟨kept.powered, kept.selected, kept.bits, kept.bits, kept.index, kept.request⟩

/-- The end of a period, with CLK running and LCS_N high (R157, R158, R161 to R163). -/
theorem State.LinkKept.periodEnds {s t : State} (capacity : s.CapacityLaw) (probe : s.ProbeLaw)
    (held : ∀ f ∈ s.held.frame?, FrameSound f) (buffer : s.requestBuffer.length = min 163 s.requestCount)
    (h : s.periodEnds = .next t) : t.LinkKept := by
  unfold State.periodEnds at h
  split at h
  · next hp =>
    cases h
    exact State.linkKept_of_none hp held buffer
  · have ended : State.LinkKept { s with period := none } := State.linkKept_of_none rfl held buffer
    split at h
    · cases h
      exact ended
    · next p _ _ =>
      exact (h ▸ runPeriod_runs p.received { s with period := none }).linkKept capacity probe ended

theorem State.LinkKept.takePin {s t : State} {change : PinChange} (law : s.LinkKept) (capacity : s.CapacityLaw)
    (probe : s.ProbeLaw) (h : s.takePin change = .next t) : t.LinkKept := by
  cases change with
  | lcsFall =>
    simp only [State.takePin] at h
    cases h
    split
    · exact law
    · split
      · next he => exact law.begin he
      · exact law.setLevels s.clkRunning true fun _ _ _ => rfl
  | lcsRise =>
    simp only [State.takePin] at h
    split at h
    · split at h
      · exact State.LinkKept.periodEnds (s := { s with lcsLow := false }) capacity probe law.held law.buffer h
      · next he =>
        cases h
        exact law.setLevels s.clkRunning false fun hp _ hc => absurd (State.takesEvents_iff.2 ⟨hp, hc⟩) he
    · cases h
      exact law
  | lckRise ldi =>
    simp only [State.takePin] at h
    cases h
    split
    · exact law.lckRise ldi
    · exact law
  | lckFall =>
    simp only [State.takePin] at h
    cases h
    split
    · exact law.lckFall
    · exact law
  | clkStop =>
    cases h
    exact law.setLevels false s.lcsLow nofun
  | clkRun =>
    simp only [State.takePin] at h
    split at h
    · next hc =>
      cases h
      refine law.setLevels true s.lcsLow fun _ hp _ => ?_
      rcases Bool.or_eq_true _ _ ▸ hc with hc | hc
      · obtain ⟨p, hp⟩ := Option.ne_none_iff_exists'.1 hp
        exact (law.period p hp).selected hc
      · exact hc
    · exact State.LinkKept.periodEnds (s := { s with clkRunning := true }) capacity probe law.held law.buffer h

/-- Everything a step does to the link keeps its law. -/
theorem step_linkKept {s t : State} (h : step s = .next t) (capacity : s.CapacityLaw) (probe : s.ProbeLaw)
    (law : s.LinkKept) : t.LinkKept := by
  unfold step at h
  split at h
  · unfold State.idle at h
    split at h
    · cases h
      exact law.of_link s.passTime_leads.link
    · next change rest _ =>
      exact State.LinkKept.takePin (s := { s with pins := rest }) (law.of_link rfl) capacity probe h
  · next c rest _ =>
    exact (h ▸ exec_runs c { s with pending := rest }).linkKept capacity probe (law.of_link rfl)

/-- Settles O58: a course keeps the contents of the blocks, and a step those of the link. -/
theorem stepKeepsContents : Obligations.StepKeepsContents := by
  refine fun s t h => ⟨step_keeps (P := State.RecordLaw) ?_ ?_ (fun _ _ _ c => c.recordLaw)
      (fun _ _ _ _ _ => State.recordLaw_of_empty fun t => by simp [State.powerOn]) h,
    step_keeps (P := State.ProbeLaw) ?_ ?_ (fun _ _ _ c => c.probeLaw) (fun _ _ _ _ _ => nofun) h,
    step_keeps (P := State.EntryLaw) ?_ ?_ (fun _ _ _ c => c.entryLaw) (fun _ _ _ _ _ => entryLaw_powerOn) h,
    fun capacity probe law => State.linkLaw_iff.2 (step_linkKept h capacity probe (State.linkLaw_iff.1 law))⟩
  · intro s t h law; rw [h]; exact law
  · intro s law; rw [s.offerNext_frame]; exact law
  · intro s t h law; rw [h]; exact law
  · intro s law; rw [s.offerNext_frame]; exact law
  · intro s t h law; rw [h]; exact law
  · intro s law; rw [s.offerNext_frame]; exact law

end Sys2Proof.Machine
end

section
/-! SUPPORT. The initiator port: the tests of R5, the rotation of the response channel (R20), deliveries (R19), the
grants (R83), and the occurrences that cannot take place. -/

namespace Sys2Proof.Machine

/-! ## The tests of R5 -/

theorem byte_ne_zero_iff {b : Byte} : b ≠ 0 ↔ ∃ k, k < 8 ∧ b.getLsbD k = true := by
  constructor
  · intro h
    by_contra hn
    refine h (BitVec.eq_of_getLsbD_eq fun k hk => ?_)
    have off : b.getLsbD k ≠ true := fun hb => hn ⟨k, hk, hb⟩
    simpa using off
  · rintro ⟨k, -, hk⟩ rfl
    simp at hk

/-- Every byte in one 4096-byte block, told by the block or by the place of the first byte. -/
theorem oneBlock_iff {a n : Nat} (hn : 1 ≤ n) :
    (∃ block, ∀ j, j < 8 * n → 4096 * block ≤ a + j ∧ a + j < 4096 * (block + 1)) ↔ a % 4096 + 8 * n ≤ 4096 := by
  constructor
  · rintro ⟨block, h⟩
    have first := h 0 (by omega)
    have last := h (8 * n - 1) (by omega)
    omega
  · exact fun h => ⟨a / 4096, fun j hj => by omega⟩

/-- Settles O8: each test of R5 in turn. -/
theorem wellFormednessTests : Obligations.WellFormednessTests := by
  intro access address beats data
  have enabled : (access = .read ∨ ∀ b ∈ data, b.enables ≠ 0) ↔
      (access = .write → ∀ b ∈ data, ∃ k, k < 8 ∧ b.enables.getLsbD k = true) := by
    simp only [byte_ne_zero_iff]
    cases access <;> simp
  simp only [transferWellFormed, Config.maxBeats, Bool.and_eq_true, Bool.or_eq_true, beq_iff_eq, decide_eq_true_eq,
    List.all_eq_true, bne_iff_ne, enabled, Nat.dvd_iff_mod_eq_zero]
  constructor
  · rintro ⟨⟨⟨hd, h1, h16⟩, hblock⟩, he⟩
    exact ⟨hd, h1, h16, (oneBlock_iff h1).2 hblock, he⟩
  · rintro ⟨hd, h1, h16, hblock, he⟩
    exact ⟨⟨⟨hd, h1, h16⟩, (oneBlock_iff h1).1 hblock⟩, he⟩

/-! ## Rotations -/

/-- The first place in ascending order that passes a test. -/
theorem find_finRange_map {n : Nat} {α : Type} {f : Fin n → α} {p : α → Bool} {k : Fin n} (hk : p (f k) = true)
    (h : ∀ m < k, p (f m) = false) : ((List.finRange n).map f).find? p = some (f k) := by
  rw [List.find?_eq_some_iff_getElem]
  refine ⟨hk, k.val, by simp, by simp, fun j hj => ?_⟩
  simpa using h ⟨j, hj.trans k.isLt⟩ hj

theorem find_finRange_map_none {n : Nat} {α : Type} {f : Fin n → α} {p : α → Bool}
    (h : ∀ m, p (f m) = false) : ((List.finRange n).map f).find? p = none := by
  simpa using h

/-- The rotation goes on from the tag after the one last taken (R20). -/
theorem State.responseOrder_eq (s : State) :
    s.responseOrder = (List.finRange 8).map fun n => s.lastTag + 1 + n := by
  unfold State.responseOrder
  generalize s.lastTag = l
  revert l
  decide

/-- The ring goes on from the place after the arbiter position (R83). -/
theorem State.searchOrder_eq (s : State) : s.searchOrder = (List.finRange 9).map fun n => s.arbiter + 1 + n := by
  unfold State.searchOrder
  generalize s.arbiter = a
  revert a
  decide

theorem allSlots_eq : allSlots = (List.finRange 16).map id := by decide

/-- Settles O13, by the first deliverable tag of the rotation. -/
theorem responseRotation : Obligations.ResponseRotation := by
  refine fun s => ⟨fun tag h => State.offerNext_of_some h, fun h n hn hm => ?_, fun h hd => ?_⟩
  · rw [State.offerNext_of_none h, State.responseOrder_eq,
      find_finRange_map (p := fun tag => (s.deliverable tag).isSome) hn fun m hlt => by rw [hm m hlt]; rfl]
  · rw [State.offerNext_of_none h, State.responseOrder_eq,
      find_finRange_map_none (p := fun tag => (s.deliverable tag).isSome) fun m => by rw [hd]; rfl, ← h]

/-! ## Deliveries -/

/-- A choice of the response channel, told by the offer it found (R20). -/
theorem State.offerNext_eq {u : State} {o : Option Tag} (h : u.offer = o) :
    u.offerNext = { u with offer := ({ u.offerNext with offer := o } : State).offerNext.offer } := by
  have found : ({ u.offerNext with offer := o } : State) = u := by
    rw [u.offerNext_frame, ← h]
  rw [found]
  exact u.offerNext_frame

/-- The oldest record of a tag, ANSWERED and not stalled, is deliverable (R19). -/
theorem State.deliverable_eq {s : State} {tag : Tag} {r : TransitRecord} {rest : List TransitRecord} {a : Answer}
    (hl : s.records[tag] = r :: rest) (hp : r.phase = .answered a) (hs : r.stalled = false) :
    s.deliverable tag = some ⟨tag, a.code, a.data⟩ := by
  rw [State.deliverable, hl]
  simp only [hp, hs, Bool.false_eq_true, if_false]

/-- A delivery of the offered response (R19, R20). -/
theorem State.deliverResponse_eq {s : State} {tag : Tag} {r : TransitRecord} {rest : List TransitRecord}
    {a : Answer} (ho : s.offer = some tag) (hl : s.records[tag] = r :: rest) (hp : r.phase = .answered a)
    (hs : r.stalled = false) :
    s.deliverResponse = ({ s.setRecords tag rest with
      lastResponse := some ⟨tag, a.code, a.data⟩, lastTag := tag, offer := none } : State).offerNext := by
  simp only [State.deliverResponse, ho, State.deliverable_eq hl hp hs, hl]
  rfl

/-- Settles O12, by the delivery and the choice of the channel behind it. -/
theorem deliveryFreesRecord : Obligations.DeliveryFreesRecord := by
  intro s tag r rest a ht ho hl hp hs
  refine ⟨s.deliverResponse, State.whenTakingEvents_of ht _, ?_⟩
  rw [State.deliverResponse_eq ho hl hp hs,
    State.offerNext_eq (u := { s.setRecords tag rest with
      lastResponse := some ⟨tag, a.code, a.data⟩, lastTag := tag, offer := none }) rfl]
  have own : (s.setRecords tag rest).records[tag] = rest := by rw [State.setRecords_get, if_pos rfl]
  refine ⟨rfl, rfl, own, fun u hu => ?_, fun hlen => ?_, ?_⟩
  · exact (State.setRecords_get (s := s) tag u rest).trans (if_neg hu.symm)
  · show 4 - ((s.setRecords tag rest).records[tag]).length = 4 - s.records[tag].length + 1
    rw [own, hl, List.length_cons]
    omega
  · rw [← State.offerNext_eq (u := { s.setRecords tag rest with
      lastResponse := some ⟨tag, a.code, a.data⟩, lastTag := tag, offer := none }) rfl]
    exact State.offerNext_eq rfl

/-! ## Grants -/

/-- The lowest FREE slot (R83). -/
theorem State.freeSlot_eq {s : State} {slot : SlotIndex} (h : s.slots[slot] = .free)
    (hlow : ∀ k < slot, s.slots[k] ≠ .free) : s.freeSlot = some slot := by
  have free_iff : ∀ k : SlotIndex, s.slots[k].isFree = true ↔ s.slots[k] = .free := fun k => by
    cases s.slots[k] <;> simp [Slot.isFree]
  rw [State.freeSlot, allSlots_eq]
  exact find_finRange_map (p := fun k : SlotIndex => s.slots[k].isFree) ((free_iff slot).2 h) fun m hm => by
    rw [← Bool.not_eq_true]
    exact fun hf => hlow m hm ((free_iff m).1 hf)

/-- The first contender behind the arbiter position (R83). -/
theorem State.nextContender_eq {s : State} {n : Fin 9} (h : s.contends (s.arbiter + 1 + n) = true)
    (hb : ∀ m < n, s.contends (s.arbiter + 1 + m) = false) : s.nextContender = some (s.arbiter + 1 + n) := by
  rw [State.nextContender, State.searchOrder_eq]
  exact find_finRange_map h hb

/-- A grant whose ring place is a tag's goes to that tag (R83). -/
theorem State.grantNext_record {s : State} {slot : SlotIndex} {c : Contender} {tag : Tag}
    (hs : s.freeSlot = some slot) (hc : s.nextContender = some c) (ht : contenderTag c = some tag) :
    s.grantNext = ({ s with arbiter := c } : State).grantRecord slot tag := by
  simp only [State.grantNext, hs, hc, ht]

/-- A grant at the probe's place of the ring goes to the probe (R83). -/
theorem State.grantNext_probe {s : State} {slot : SlotIndex} {c : Contender} (hs : s.freeSlot = some slot)
    (hc : s.nextContender = some c) (ht : contenderTag c = none) :
    s.grantNext = ({ s with arbiter := c } : State).grantProbe slot := by
  simp only [State.grantNext, hs, hc, ht]

theorem contenderTag_record {c : Contender} {tag : Tag} (h : c.val = tag.val) : contenderTag c = some tag := by
  simp [contenderTag, h]

theorem contenderTag_probe {c : Contender} (h : c.val = 8) : contenderTag c = none := by
  simp [contenderTag, h]

/-- A grant to a tag issues its oldest READY record (R85). -/
theorem State.grantRecord_eq {s : State} {tag : Tag} {pre post : List TransitRecord} {r : TransitRecord}
    (slot : SlotIndex) (hl : s.records[tag] = pre ++ r :: post) (hpre : ∀ x ∈ pre, x.isReady = false)
    (hr : r.isReady = true) : s.grantRecord slot tag = { s with
      records := s.records.set tag (pre ++ { r with phase := .atMemory slot } :: post)
      slots := s.slots.set slot
        (.busy (.record tag) r.access r.beats.toNat s.responseLimit (startTimer s.responseLimit))
      memoryRequest := some ⟨slot, r.access, r.address, r.beats.toNat, r.writeData⟩ } := by
  simp only [State.grantRecord, hl, find_append hpre hr, onFirst_append hpre hr]
  rfl

/-- Settles O26: the ring's next contender is a tag with a READY record or the queued probe. -/
theorem grantFollowsRotation : Obligations.GrantFollowsRotation := by
  intro s slot n ht hs hlow hc hb
  have free := State.freeSlot_eq hs hlow
  have next := State.nextContender_eq hc hb
  have granted : exec .grant s = .next s.grantNext := State.whenTakingEvents_of ht _
  refine ⟨fun tag pre post r hn hl hpre hr => ?_, fun q hn hq => ?_⟩
  · rw [granted, State.grantNext_record free next (contenderTag_record hn)]
    exact congrArg _ (State.grantRecord_eq (s := { s with arbiter := s.arbiter + 1 + n }) slot hl
      (fun x hx => TransitRecord.isReady_eq_false.2 (hpre x hx)) (TransitRecord.isReady_iff.2 hr))
  · rw [granted, State.grantNext_probe free next (contenderTag_probe hn)]
    simp only [State.grantProbe, hq]
    rfl

/-! ## What cannot take place -/

/-- An event that changes nothing where it is taken changes nothing at all. -/
theorem State.whenTakingEvents_of_eq {s : State} {f : State → State} (h : f s = s) :
    s.whenTakingEvents f = .next s := by
  rw [State.whenTakingEvents, h, ite_self]

/-- A request without room, or while SYSRST_N is asserted, stays offered (R3, R24). -/
theorem State.accept_of_no_room {s : State} {tag : Tag} (privilege : Privilege) (address : Addr)
    (body : RequestBody) (h : s.sysrst = true ∨ 4 ≤ s.records[tag].length) :
    s.accept tag privilege address body = s := by
  have waits : (s.sysrst || s.room tag == 0) = true := by
    rcases h with h | h
    · rw [h, Bool.true_or]
    · have full : s.room tag = 0 := Nat.sub_eq_zero_of_le h
      rw [full]
      exact Bool.or_true _
  rw [State.accept, if_pos waits]

/-- No slot is granted while none is FREE, or while nothing contends (R83). -/
theorem State.grantNext_of_none {s : State}
    (h : (∀ k : SlotIndex, s.slots[k] ≠ .free) ∨ ∀ c : Contender, s.contends c = false) : s.grantNext = s := by
  rcases h with h | h
  · have none : s.freeSlot = none := List.find?_eq_none.2 fun k _ hk => by
      cases hs : s.slots[k] with
      | free => exact h k hs
      | _ => simp only [hs] at hk; cases hk
    simp only [State.grantNext, none]
  · have none : s.nextContender = none := List.find?_eq_none.2 fun c _ hc => by simp [h c] at hc
    simp only [State.grantNext, none]
    split
    · next hn => cases hn
    · rfl

/-- A stopped response timer does not expire (R91). -/
theorem State.expireResponse_of_stopped {s : State} {k : SlotIndex}
    (h : ∀ (o : Occupant) (a : Access) (b : Nat) (l : BitVec 16) (m : Nat), s.slots[k] ≠ .busy o a b l (some m)) :
    s.expireResponse k = s := by
  unfold State.expireResponse
  split
  · next hk => exact absurd hk (h _ _ _ _ _)
  · next hk => exact absurd hk (h _ _ _ _ _)
  · rfl

theorem HeldResponse.built_of_not {held : HeldResponse} (h : ∀ f, held ≠ .preparing f) : held.built = held := by
  unfold HeldResponse.built
  split
  · exact absurd rfl (h _)
  · rfl

/-- Settles O11: each occurrence in turn leaves the state as it is. -/
theorem occurrencesThatCannotHappen : Obligations.OccurrencesThatCannotHappen := by
  refine fun s => ⟨fun tag privilege address body h => ?_, fun h => ?_, fun h => ?_, fun tag h => ?_, fun k h => ?_,
    fun h holdboot => ?_, fun h => ?_⟩ <;> apply State.whenTakingEvents_of_eq
  · exact State.accept_of_no_room privilege address body h
  · simp only [State.deliverResponse, h]
  · exact State.grantNext_of_none h
  · simp only [State.expireHold, h]
  · exact State.expireResponse_of_stopped h
  · rw [State.systemReset, if_pos h]
  · rw [HeldResponse.built_of_not h]

end Sys2Proof.Machine
end

section
/-! SUPPORT. Answers to records at the memory port and at the gates: the answer that is not evaluated (R87), the
response expiry (R92), the malformed request (R7), TAG-WITHDRAW (R64), HELD-PATCH and HELD-ANSWER (R67, R68). -/

namespace Sys2Proof.Machine

/-! ## Answers at the memory port -/

/-- A record found by its slot among records that do not name it (R87, R92). -/
theorem find_inSlot {pre post : List TransitRecord} {r : TransitRecord} {slot : SlotIndex}
    (hr : r.phase = .atMemory slot) (h : ∀ x ∈ pre ++ post, x.phase ≠ .atMemory slot) :
    (pre ++ r :: post).find? (·.inSlot slot) = some r :=
  find_append (fun x hx => TransitRecord.inSlot_eq_false.2 (h x (List.mem_append_left _ hx)))
    (TransitRecord.inSlot_iff.2 hr)

/-- The record issued through a slot that has just been given another state is answered (R87, R92). -/
theorem State.setSlot_answerRecord_eq {s : State} {tag : Tag} {slot : SlotIndex} {pre post : List TransitRecord}
    {r : TransitRecord} (v : Slot) (code : AnswerCode) (values : List Beat)
    (hl : s.records[tag] = pre ++ r :: post) (hr : r.phase = .atMemory slot)
    (h : ∀ x ∈ pre ++ post, x.phase ≠ .atMemory slot) :
    (s.setSlot slot v).answerRecord tag slot code values = { s with
      slots := s.slots.set slot v
      records := s.records.set tag (pre ++ r.answeredWith code values :: post) } :=
  State.answerRecord_eq (s := s.setSlot slot v) code values hl (TransitRecord.inSlot_iff.2 hr)
    fun x hx => TransitRecord.inSlot_eq_false.2 (h x hx)

/-- Values that were already supplied are kept. -/
theorem answerData_idem (access : Access) (n : Nat) (l : List Beat) :
    answerData access n (answerData access n l) = answerData access n l := by
  cases access with
  | write => rfl
  | read =>
    refine List.ext_getElem? fun k => ?_
    by_cases hk : k < n
    · simp only [answerData_read, supplied_get _ _ k hk, List.getD_eq_getElem?_getD, Option.getD_some]
    · have short : ∀ m : List Beat, (answerData .read n m)[k]? = none := fun m =>
        List.getElem?_eq_none (by simpa [answerData_length] using hk)
      rw [short, short]

/-- Settles O27: neither code of such an answer leads to an evaluation. -/
theorem answerWithoutEvaluation : Obligations.AnswerWithoutEvaluation := by
  intro s slot tag limit timer code data pre post r ht hs hl hr ho hc
  have plain : ¬ (code = .ok ∧ r.access = .read) := by
    rintro ⟨rfl, hread⟩
    rcases hc with h | h
    · cases h
    · rw [h] at hread; cases hread
  have values : answerData r.access r.beats.toNat (answerData r.access r.beats.toNat (memoryValues code data))
      = if r.access = .read then List.replicate r.beats.toNat 0 else [] := by
    rw [answerData_idem]
    rcases hc with rfl | hw
    · exact answerData_nil _ _
    · rw [hw]; rfl
  have code_eq : memoryAnswerCode code = if code = .ok then .done else .memoryError := by cases code <;> rfl
  have taken : s.takeAnswer slot code data
      = ((s.setSlot slot .free).answerRecord tag slot (memoryAnswerCode code)
          (answerData r.access r.beats.toNat (memoryValues code data))).offerNext := by
    simp only [State.takeAnswer, hs, State.answerForRecord, hl, find_inSlot hr ho, if_neg plain]
  refine (State.whenTakingEvents_of ht _).trans (congrArg _ (taken.trans ?_))
  rw [State.setSlot_answerRecord_eq _ _ _ hl hr ho, TransitRecord.answeredWith, values, code_eq]

/-- Settles O31, by the answer to the record and its event. -/
theorem responseExpiryOfRecord : Obligations.ResponseExpiryOfRecord := by
  intro s slot tag access beats limit m pre post r ht hs hl hr ho
  have expired : s.expireResponse slot = (((s.setSlot slot .lingering).answerRecord tag slot .noAnswer []).place
      (.noAnswer (r.transaction tag)) none).offerNext := by
    simp only [State.expireResponse, hs, State.expireRecord, hl, find_inSlot hr ho]
  refine (State.whenTakingEvents_of ht _).trans (congrArg _ (expired.trans ?_))
  rw [State.setSlot_answerRecord_eq _ _ _ hl hr ho, TransitRecord.answeredWith, answerData_nil]
  rfl

/-! ## The malformed request -/

/-- A request that is taken is judged by R5 first. -/
theorem State.accept_eq {s : State} {tag : Tag} (privilege : Privilege) (address : Addr) (body : RequestBody)
    (hn : s.sysrst = false) (hl : s.records[tag].length < 4) :
    s.accept tag privilege address body =
      if transferWellFormed (bodyAccess body) address (bodyBeats body).toNat (bodyData body)
      then s.acceptWellFormed tag (s.freshRecord privilege address body)
      else s.acceptMalformed tag (s.freshRecord privilege address body) := by
  have room : s.room tag ≠ 0 := Nat.sub_ne_zero_of_lt hl
  have taken : ¬ (s.sysrst || s.room tag == 0) = true := by simp [hn, room]
  rw [State.accept, if_neg taken]
  rfl

/-- Settles O9, by the record, its event and the choice of the channel. -/
theorem malformedAcceptance : Obligations.MalformedAcceptance := by
  intro s tag privilege address body ht hn hl _ hw
  refine (State.whenTakingEvents_of ht _).trans (congrArg _ ?_)
  rw [State.accept_eq privilege address body hn hl, hw, if_neg Bool.false_ne_true, State.acceptMalformed]
  have zeros : (if 1 ≤ (bodyBeats body).toNat ∧ (bodyBeats body).toNat ≤ 16
      then answerData (bodyAccess body) (bodyBeats body).toNat [] else [])
      = if bodyAccess body = .read ∧ 1 ≤ (bodyBeats body).toNat ∧ (bodyBeats body).toNat ≤ 16
        then List.replicate (bodyBeats body).toNat 0 else [] := by
    rw [answerData_nil, ← ite_and]
    simp only [and_comm (b := bodyAccess body = .read)]
  rw [← zeros]
  rfl

/-! ## Requests of the link that end with the choice of the channel -/

/-- What the channel offers depends on its offer, on the tag last taken and on the records (R20). -/
theorem State.offerNext_offer_congr {a b : State} (ho : a.offer = b.offer) (hl : a.lastTag = b.lastTag)
    (hr : a.records = b.records) : a.offerNext.offer = b.offerNext.offer := by
  have order : a.responseOrder = b.responseOrder := by rw [State.responseOrder, State.responseOrder, hl]
  have deliverable : a.deliverable = b.deliverable := by
    funext tag
    rw [State.deliverable, State.deliverable, hr]
  cases h : b.offer with
  | some tag => rw [State.offerNext_of_some h, State.offerNext_of_some (ho.trans h), ho]
  | none => rw [State.offerNext_of_none h, State.offerNext_of_none (ho.trans h), order, deliverable]

/-- The state behind a reply, told by the state before the channel chose. -/
theorem State.reply_eq {u t : State} (h : t = u.offerNext.withLinkOf t) :
    t = ({ u with offer := ({ t with offer := u.offer } : State).offerNext.offer } : State).withLinkOf t := by
  have chosen : u.offerNext = { u with offer := ({ t with offer := u.offer } : State).offerNext.offer } := by
    have same : ({ t with offer := u.offer } : State).offerNext.offer = u.offerNext.offer :=
      State.offerNext_offer_congr rfl (by rw [h, u.offerNext_frame]; rfl) (by rw [h, u.offerNext_frame]; rfl)
    rw [same]
    exact u.offerNext_frame
  rw [← chosen]
  exact h

/-- A block that changed gates and records alone, and then let the channel choose. -/
theorem State.reply_of_gates {s u t : State} (hu : u = { s with gates := u.gates, records := u.records })
    (h : t = u.offerNext.withLinkOf t) :
    t.gates = u.gates ∧ t.records = u.records ∧
      t = ({ s with
        gates := t.gates, records := t.records,
        offer := ({ t with offer := s.offer } : State).offerNext.offer } : State).withLinkOf t := by
  have gates : t.gates = u.gates := by rw [h, u.offerNext_frame]; rfl
  have records : t.records = u.records := by rw [h, u.offerNext_frame]; rfl
  have offer : u.offer = s.offer := by rw [hu]
  refine ⟨gates, records, ?_⟩
  have key := State.reply_eq h
  rw [offer] at key
  rw [gates, records] at key ⊢
  rw [hu] at key
  exact key

/-- Settles O23, by the withdrawal record by record. -/
theorem withdrawAnswersGatedRecords : Obligations.WithdrawAnswersGatedRecords := by
  intro s tag after state hp ha
  have known : afterOf after = some state := by rcases ha with ⟨rfl, rfl⟩ | ⟨rfl, rfl⟩ <;> rfl
  have act : withTag (byteOf tag.val) (tagWithdrawAct after) s
      = ((s.withdraw tag state).offerNext, .ok [countByte (·.isGated) s.records[tag]]) := by
    rw [withTag_byteOf, tagWithdrawAct, known]
  obtain ⟨t, he, hr, hl⟩ := State.request_ok hp (code := 0x24) (payload := [byteOf tag.val, after]) act
  obtain ⟨gates, records, frame⟩ := State.reply_of_gates (s := s) rfl hl
  rw [State.withdraw_eq] at gates records
  refine ⟨t, he, hr, ?_, ?_, fun u hu => ⟨?_, ?_⟩, frame⟩
  · rw [records, State.setGate_records, State.setRecords_get, if_pos rfl, withdrawGated_eq]
  · rw [gates, State.setGate_get, if_pos rfl]
  · rw [gates, State.setGate_get, if_neg hu.symm, State.setRecords_gates]
  · rw [records, State.setGate_records, State.setRecords_get, if_neg hu.symm]

/-! ## Work on the held head -/

theorem GateState.afterHeldAnswer_closed (cause : CloseCause) : GateState.afterHeldAnswer (.closed cause)
    = .closed (if cause = .watchBefore then .freeze else cause) := by
  cases cause <;> rfl

/-- HELD-PATCH on the head of a CLOSED gate (R67). -/
theorem State.heldPatchAct_eq {s : State} {tag : Tag} {pre post : List TransitRecord} {h : TransitRecord}
    {beat : Byte} {w : WriteBeat} (hc : s.gates[tag].state.isClosed = true) (hl : s.records[tag] = pre ++ h :: post)
    (hp : hasGated pre = false) (hg : h.isGated = true) (hw : h.access = .write)
    (hb : beat.toNat < h.beats.toNat) (he : w.enables ≠ 0) :
    heldPatchAct beat w tag s = (s.setRecords tag (pre ++ h.patched beat.toNat w :: post), .ok []) := by
  have write : h.access ≠ .read := by rw [hw]; nofun
  simp only [heldPatchAct, State.heldHead_some hc hl hp hg, if_neg write, if_neg (Nat.not_le.2 hb), if_neg he, hl,
    onHead_append hp hg]

/-- The state that HELD-ANSWER leaves before the channel chooses (R68, R69). -/
def State.headAnswered (s : State) (tag : Tag) (l : List TransitRecord) : State :=
  ((s.setRecords tag l).setGate tag
    { s.gates[tag] with state := s.gates[tag].state.afterHeldAnswer }).settleTimer tag

theorem State.heldAnswerAct_eq {s : State} {tag : Tag} {pre post : List TransitRecord} {h : TransitRecord}
    (values : List Beat) (hc : s.gates[tag].state.isClosed = true) (hl : s.records[tag] = pre ++ h :: post)
    (hp : hasGated pre = false) (hg : h.isGated = true) :
    heldAnswerAct values tag s
      = ((s.headAnswered tag (pre ++ h.answeredWith .done values :: post)).offerNext, .ok []) := by
  simp only [heldAnswerAct, State.heldHead_some hc hl hp hg, hl, onHead_append hp hg]
  rfl

theorem State.headAnswered_records_get (s : State) (tag u : Tag) (l : List TransitRecord) :
    (s.headAnswered tag l).records[u] = if tag = u then l else s.records[u] :=
  State.setRecords_get (s := s) tag u l

theorem State.headAnswered_gates_get (s : State) (tag u : Tag) (l : List TransitRecord) :
    (s.headAnswered tag l).gates[u] = if tag = u then
      ({ s.gates[tag] with state := s.gates[tag].state.afterHeldAnswer } : Gate).settleTimer (hasGated l)
    else s.gates[u] := by
  rw [State.headAnswered, State.settleTimer_gates_get, State.setGate_get, State.setGate_get, if_pos rfl,
    State.setGate_records, State.setRecords_get, if_pos rfl, State.setRecords_gates]
  split <;> rfl

/-- Settles O24, by the head in its place and the gate behind its answer. -/
theorem patchAndAnswerOfTheHead : Obligations.PatchAndAnswerOfTheHead := by
  intro s tag cause pre post h hp hstate hl hpre hphase
  have hc : s.gates[tag].state.isClosed = true := by rw [hstate]; rfl
  have hg : h.isGated = true := TransitRecord.isGated_iff.2 hphase
  refine ⟨fun beat data enables hw hb he => ?_, fun values _ => ?_⟩
  · have act : withTag (byteOf tag.val) (heldPatchAct beat ⟨data, enables⟩) s = _ :=
      (withTag_byteOf _ _ _).trans (State.heldPatchAct_eq hc hl hpre hg hw hb he)
    obtain ⟨t, hx, hr, hf⟩ := State.request_ok hp (code := 0x27)
      (payload := byteOf tag.val :: beat :: beatBytes data ++ [enables]) act
    have records : t.records = (s.setRecords tag (pre ++ h.patched beat.toNat ⟨data, enables⟩ :: post)).records := by
      rw [hf]; rfl
    refine ⟨t, hx, hr, ?_, fun u hu => ?_, ?_⟩
    · rw [records, State.setRecords_get, if_pos rfl]; rfl
    · rw [records, State.setRecords_get, if_neg hu.symm]
    · rw [records]; exact hf
  · have act : withTag (byteOf tag.val) (heldAnswerAct values) s = _ :=
      (withTag_byteOf _ _ _).trans (State.heldAnswerAct_eq values hc hl hpre hg)
    obtain ⟨t, hx, hr, hf⟩ := State.request_ok hp (code := 0x28)
      (payload := byteOf tag.val :: byteOf values.length :: values.flatMap beatBytes) act
    obtain ⟨gates, records, frame⟩ := State.reply_of_gates (s := s) rfl hf
    refine ⟨t, answerData h.access h.beats.toNat values, hx, hr, ?_, fun hw => ?_, fun hread => ⟨?_, fun k hk => ?_⟩,
      ?_, fun u hu => ⟨?_, ?_⟩, frame⟩
    · rw [records, State.headAnswered_records_get, if_pos rfl]; rfl
    · rw [hw]; rfl
    · rw [hread, answerData_length, if_pos rfl]
    · rw [hread]; exact supplied_get _ _ k hk
    · have behind : hasGated (pre ++ h.answeredWith .done values :: post) = hasGated post := by
        rw [hasGated_append, hasGated_cons, hpre]
        rfl
      rw [gates, State.headAnswered_gates_get, if_pos rfl, behind, hstate, GateState.afterHeldAnswer_closed,
        Gate.settleTimer_eq]
      simp only [GateState.isClosed_closed, true_and]
    · rw [gates, State.headAnswered_gates_get, if_neg hu.symm]
    · rw [records, State.headAnswered_records_get, if_neg hu.symm]

end Sys2Proof.Machine
end

section
/-! SUPPORT. CLEAR (R171) and the assertion of SYSRST_N (R23): the heads considered tag by tag, and the event unit
told apart from the rest of the part. -/

namespace Sys2Proof.Machine

/-! ## The heads considered tag by tag -/

/-- A consideration of one tag leaves the gate and the records of another. -/
theorem State.consider_other (s : State) {t u : Tag} (h : t ≠ u) :
    (s.consider t).records[u] = s.records[u] ∧ (s.consider t).gates[u] = s.gates[u] := by
  rw [State.consider_records_get, if_neg h, State.consider_gates_get, if_neg h]
  exact ⟨rfl, rfl⟩

/-- A tag's records and gate after a consideration depend on its own records and gate alone. -/
theorem State.consider_congr {a b : State} {u : Tag} (h : a.records[u] = b.records[u] ∧ a.gates[u] = b.gates[u]) :
    (a.consider u).records[u] = (b.consider u).records[u] ∧ (a.consider u).gates[u] = (b.consider u).gates[u] := by
  simp only [State.consider_records_get, State.consider_gates_get, h.1, h.2, if_true, and_self]

theorem State.foldl_consider_other (l : List Tag) (s : State) {u : Tag} (h : u ∉ l) :
    (l.foldl State.consider s).records[u] = s.records[u] ∧ (l.foldl State.consider s).gates[u] = s.gates[u] := by
  induction l generalizing s with
  | nil => exact ⟨rfl, rfl⟩
  | cons t l ih =>
    obtain ⟨records, gates⟩ := ih (s.consider t) fun hu => h (List.mem_cons_of_mem _ hu)
    obtain ⟨records', gates'⟩ := s.consider_other (t := t) (u := u) fun e => h (e ▸ List.mem_cons_self)
    exact ⟨records.trans records', gates.trans gates'⟩

/-- Each tag of the list is considered once. -/
theorem State.foldl_consider_own {l : List Tag} (hn : l.Nodup) (s : State) {u : Tag} (h : u ∈ l) :
    (l.foldl State.consider s).records[u] = (s.consider u).records[u]
      ∧ (l.foldl State.consider s).gates[u] = (s.consider u).gates[u] := by
  induction l generalizing s with
  | nil => cases h
  | cons t l ih =>
    obtain ⟨ht, hl⟩ := List.nodup_cons.1 hn
    by_cases hu : t = u
    · subst hu
      exact State.foldl_consider_other l (s.consider t) ht
    · obtain ⟨records, gates⟩ := ih hl (s.consider t) ((List.mem_cons.1 h).resolve_left fun e => hu e.symm)
      obtain ⟨records', gates'⟩ := State.consider_congr (s.consider_other hu)
      exact ⟨records.trans records', gates.trans gates'⟩

theorem State.foldl_consider_frame (l : List Tag) (s : State) : l.foldl State.consider s = { s with
    gates := (l.foldl State.consider s).gates, records := (l.foldl State.consider s).records } := by
  induction l generalizing s with
  | nil => rfl
  | cons t l ih => exact ih (s.consider t)

/-! ## CLEAR -/

/-- The state that CLEAR leaves before the channel chooses (R80, R171). -/
def State.cleared (s : State) : State := allTags.foldl State.consider s.clearConfiguration

theorem State.cleared_records (s : State) (tag : Tag) : s.cleared.records[tag]
    = (passRun .opened (s.records[tag].map fun r => { r with stalled := false })).2 := by
  have own := (State.foldl_consider_own (by decide) s.clearConfiguration (by revert tag; decide : tag ∈ allTags)).1
  rw [State.cleared, own, State.consider_records_get, if_pos rfl]
  simp [State.clearConfiguration, Gate.cleared]

theorem State.cleared_gates (s : State) (tag : Tag) : s.cleared.gates[tag]
    = ⟨(passRun .opened (s.records[tag].map fun r => { r with stalled := false })).1, 0, .pass, none⟩ := by
  have own := (State.foldl_consider_own (by decide) s.clearConfiguration (by revert tag; decide : tag ∈ allTags)).2
  rw [State.cleared, own, State.consider_gates_get, if_pos rfl, Gate.settleTimer_eq]
  simp [State.clearConfiguration, Gate.cleared]

theorem State.cleared_frame (s : State) : s.cleared = { s.clearConfiguration with
    gates := s.cleared.gates, records := s.cleared.records } :=
  State.foldl_consider_frame allTags s.clearConfiguration

/-- Settles O7, from the configuration before and the gates and records behind the considerations. -/
theorem clearRestoresConfiguration : Obligations.ClearRestoresConfiguration := by
  intro s hp
  obtain ⟨t, he, hr, hf⟩ := State.request_ok hp (code := 0x02) (payload := []) (act := clearAct)
    (u := s.cleared.offerNext) rfl
  have frame : t = ({ s.clearConfiguration with
      gates := s.cleared.gates, records := s.cleared.records
      offer := ({ t with offer := s.offer } : State).offerNext.offer } : State).withLinkOf t := by
    have key := State.reply_eq hf
    rw [s.cleared_frame] at key
    exact key
  refine ⟨t, he, hr, fun i => ?_, ?_, ?_, ?_, ?_, ?_, ?_, ?_, ?_, ?_, fun tag => ?_, ?_⟩
  · have entries : t.entries = Vector.replicate 16 .powerOn := by rw [frame]; rfl
    rw [entries, Fin.getElem_fin, Vector.getElem_replicate]
  case refine_11 =>
    have records : t.records = s.cleared.records := by rw [frame]; rfl
    have gates : t.gates = s.cleared.gates := by rw [frame]; rfl
    rw [records, gates, s.cleared_records, s.cleared_gates]
    exact ⟨rfl, rfl, rfl, rfl, rfl⟩
  case refine_12 =>
    generalize ({ t with offer := s.offer } : State).offerNext.offer = offer at frame ⊢
    unfold State.withLinkOf at frame ⊢
    generalize t.held = held, t.requestBuffer = buffer, t.requestCount = count, t.ldo = ldo at frame ⊢
    subst frame
    rfl
  all_goals rw [frame]; rfl

/-! ## The event unit apart from the rest -/

/-- Two states whose event units and waits agree. -/
def State.SameUnit (a b : State) : Prop :=
  a.store = b.store ∧ a.stalls = b.stalls ∧ a.lost = b.lost ∧ a.sequence = b.sequence
    ∧ a.waitsPending = b.waitsPending ∧ a.waitsComplete = b.waitsComplete

/-- The placement of a lossy event depends on the event unit and the waits alone (R105). -/
theorem State.SameUnit.place {a b : State} (h : a.SameUnit b) (e : Event) :
    (a.place e none).SameUnit (b.place e none) := by
  obtain ⟨store, stalls, lost, sequence, pending, complete⟩ := h
  obtain ⟨_, -, placed⟩ := b.place_of_unit e none
  rw [placed a store stalls lost sequence pending complete]
  exact ⟨rfl, rfl, rfl, rfl, rfl, rfl⟩

/-- A probe's completion and a lossy event behind it write the probe, the event unit and the waits alone. -/
theorem State.finishProbe_place_frame (s : State) (code : ProbeCode) (values : List Beat) (e : Event) :
    (s.finishProbe code values).place e none = { s with
      probe := (s.finishProbe code values).probe
      store := ((s.finishProbe code values).place e none).store
      lost := ((s.finishProbe code values).place e none).lost
      sequence := ((s.finishProbe code values).place e none).sequence
      waitsPending := ((s.finishProbe code values).place e none).waitsPending
      waitsComplete := ((s.finishProbe code values).place e none).waitsComplete } := by
  have finished := s.finishProbe_frame code values
  generalize s.finishProbe code values = f at finished ⊢
  have placed := f.place_none_frame e
  generalize f.place e none = t at placed ⊢
  rw [finished] at placed
  exact placed

/-! ## The assertion of SYSRST_N -/

/-- The event unit behind the discards and the end of a probe in flight (R121, R155). -/
theorem State.SameUnit.finishProbe {a b : State} (h : a.SameUnit b) (code : ProbeCode) (values : List Beat) :
    (a.finishProbe code values).SameUnit
      (if a.probe.inFlight = true then b.place (.probeDone code) none else b) := by
  rcases a.finishProbe_cases code values with ⟨idle, he⟩ | ⟨q, hq, he⟩
  · rw [he, idle]
    exact h
  · have flying : a.probe.inFlight = true := by rcases hq with hq | hq <;> rw [hq] <;> rfl
    rw [he, if_pos flying]
    exact State.SameUnit.place (a := { a with probe := .done q code (answerData q.access q.beats values) }) h _

/-- Settles O6: the discards, the end of the probe, and the event unit behind both events. -/
theorem systemReset : Obligations.SystemReset := by
  refine ⟨fun holdboot s ht hn => ?_, fun s ht => State.whenTakingEvents_of ht fun s => { s with sysrst := false }⟩
  have reset : exec (.sysrstAssertion holdboot) s
      = .next (((s.discardTarget holdboot).finishProbe .targetReset []).place .targetReset none) := by
    refine (State.whenTakingEvents_of ht _).trans (congrArg _ ?_)
    rw [State.systemReset, hn, if_neg Bool.false_ne_true]
  have unit := (State.SameUnit.finishProbe (a := s.discardTarget holdboot)
    (b := { s with stalls := [], lost := BitVec.ofNat 8 (min 255 (s.lost.toNat + s.stalls.length)) })
    ⟨rfl, rfl, rfl, rfl, rfl, rfl⟩ .targetReset []).place .targetReset
  have frame := (s.discardTarget holdboot).finishProbe_place_frame .targetReset [] .targetReset
  have ended : ∀ q, s.probe = .queued q ∨ s.probe = .atMemory q →
      ((s.discardTarget holdboot).finishProbe .targetReset []).probe
        = .done q .targetReset (if q.access = .read then List.replicate q.beats 0 else []) := fun q hq => by
    rw [State.finishProbe_eq (s := s.discardTarget holdboot) .targetReset [] hq, State.place_probe, answerData_nil]
  have kept : s.probe.inFlight = false →
      ((s.discardTarget holdboot).finishProbe .targetReset []).probe = s.probe := fun idle => by
    rw [State.finishProbe_of_not (s := s.discardTarget holdboot) .targetReset [] idle]
    rfl
  generalize (s.discardTarget holdboot).finishProbe .targetReset [] = f at reset unit frame ended kept
  generalize f.place .targetReset none = t at reset unit frame
  obtain ⟨store, -, lost, sequence, pending, complete⟩ := unit
  rw [store, lost, sequence, pending, complete] at frame
  refine ⟨t, _, _, reset, ?_, ?_, ?_, ?_, ?_, ?_, fun tag => ?_, fun k => ?_, fun q hq => ?_, fun idle => ?_, rfl,
    rfl, ?_⟩
  case refine_7 =>
    have records : t.records = Vector.replicate 8 [] := by rw [frame]; rfl
    have gates : t.gates = Vector.ofFn fun t => (s.gates[t] : Gate).systemReset holdboot := by rw [frame]; rfl
    rw [records, gates]
    simp [Gate.systemReset, Gate.leaveClosed, GateState.boot]
  case refine_8 =>
    have slots : t.slots = Vector.replicate 16 .free := by rw [frame]; rfl
    rw [slots, Fin.getElem_fin, Vector.getElem_replicate]
  case refine_9 => rw [frame]; exact ended q hq
  case refine_10 => rw [frame]; exact kept idle
  case refine_11 => subst frame; rfl
  all_goals rw [frame]; rfl

end Sys2Proof.Machine
end

section
/-! SUPPORT. Evaluations and their events: what a report leaves (R39, R44), the OK answer to a READ (R41 to R44),
and the acceptance of a well-formed request (R6). -/

namespace Sys2Proof.Machine

/-! ## The event of an evaluation -/

/-- The event of an evaluation is placed if a reporting entry fired, linked to its record if it is lossless
(R39, R44). -/
def State.report (s : State) (entries : Vector WatchEntry 16) (fired : List WatchIndex) (e : Event)
    (link : RecordLink) : State :=
  if reports entries fired then s.place e (if reportsLossless entries fired then some link else none) else s

theorem reports_of_lossless {entries : Vector WatchEntry 16} {fired : List WatchIndex}
    (h : reportsLossless entries fired = true) : reports entries fired = true := by
  obtain ⟨i, hi, hl⟩ := List.any_eq_true.1 h
  refine List.any_eq_true.2 ⟨i, hi, ?_⟩
  rw [eq_of_beq hl]
  rfl

/-- A report writes the event unit and the waits as these stand, and marks its record stalled exactly when its
event is lossless and finds neither a wait nor room (R105). -/
theorem State.report_of_unit (s : State) (entries : Vector WatchEntry 16) (fired : List WatchIndex) (e : Event)
    (link : RecordLink) : ∃ b : Bool,
      (b = true ↔ reportsLossless entries fired = true ∧ 32 ≤ s.store.length
        ∧ ∀ w ∈ s.waitsPending, w.selector.accepts e = false)
      ∧ ∀ u : State, u.SameUnit s → u.report entries fired e link = { u with
          store := (s.report entries fired e link).store
          stalls := (s.report entries fired e link).stalls
          lost := (s.report entries fired e link).lost
          sequence := (s.report entries fired e link).sequence
          waitsPending := (s.report entries fired e link).waitsPending
          waitsComplete := (s.report entries fired e link).waitsComplete
          records := if b then (u.markStall link true).records else u.records } := by
  by_cases hr : reports entries fired = true
  · obtain ⟨b, hb, placed⟩ := s.place_of_unit e (if reportsLossless entries fired then some link else none)
    have linked : (if reportsLossless entries fired = true then some link else none) ≠ none
        ↔ reportsLossless entries fired = true := by simp
    rw [linked] at hb
    refine ⟨b, hb, fun u ⟨store, stalls, lost, sequence, pending, complete⟩ => ?_⟩
    simp only [State.report, if_pos hr]
    rw [placed u store stalls lost sequence pending complete]
    cases hl : reportsLossless entries fired with
    | true => rfl
    | false =>
      have unmarked : b = false := by
        rw [← Bool.not_eq_true, hb, hl]
        exact fun h => Bool.false_ne_true h.1
      rw [unmarked]
      rfl
  · have lossy : reportsLossless entries fired = false := by
      rw [← Bool.not_eq_true]
      exact fun h => hr (reports_of_lossless h)
    refine ⟨false, by simp [lossy], fun u ⟨store, stalls, lost, sequence, pending, complete⟩ => ?_⟩
    simp only [State.report, if_neg hr, ← store, ← stalls, ← lost, ← sequence, ← pending, ← complete]
    rfl

/-- The mark of one record among records with other marks (R17). -/
theorem State.markStall_eq {s : State} {tag : Tag} {pre post : List TransitRecord} {r : TransitRecord}
    (hl : s.records[tag] = pre ++ r :: post) (h : ∀ x ∈ pre ++ post, x.id ≠ r.id) (b : Bool) :
    s.markStall ⟨tag, r.id⟩ b = s.setRecords tag (pre ++ { r with stalled := b } :: post) := by
  have keep : ∀ l : List TransitRecord, (∀ x ∈ l, x.id ≠ r.id) →
      l.map (fun x : TransitRecord => if x.id = r.id then { x with stalled := b } else x) = l := fun l hl =>
    (List.map_congr_left fun x hx => if_neg (hl x hx)).trans (List.map_id l)
  simp only [State.markStall, hl, List.map_append, List.map_cons, if_true,
    keep pre fun x hx => h x (List.mem_append_left _ hx), keep post fun x hx => h x (List.mem_append_right _ hx)]

/-- A stall mark, set or not, on one record that bore none. -/
theorem State.markStall_if {s : State} {tag : Tag} {pre post : List TransitRecord} {r : TransitRecord}
    (hl : s.records[tag] = pre ++ r :: post) (h : ∀ x ∈ pre ++ post, x.id ≠ r.id) (hr : r.stalled = false)
    (b : Bool) : (if b then (s.markStall ⟨tag, r.id⟩ true).records else s.records)
      = s.records.set tag (pre ++ { r with stalled := b } :: post) := by
  cases b with
  | true => rw [State.markStall_eq hl h]; rfl
  | false =>
    have same : ({ r with stalled := false } : TransitRecord) = r := by rw [← hr]
    rw [same, ← hl]
    exact (Vector.set_getElem_self _).symm

/-! ## The OK answer to a READ -/

/-- The gate behind a response-phase evaluation whose action applied is `a` (R57). -/
def State.closeAsApplied (s : State) (tag : Tag) (a : Action) : State :=
  if a = .holdAfter then s.closeForRead tag else s

/-- The gate context of a tag that a response-phase HOLD-AFTER closed (R57, R70). -/
def Gate.closedForRead (g : Gate) (gatedBehind : Bool) : Gate :=
  { g with
    state := .closed .watchRead
    timer := if gatedBehind ∧ g.limit ≠ 0 then some (g.timer.getD (g.limit.toNat * 100)) else none }

/-- An OPEN or STEPPING gate is closed; a CLOSED gate keeps its cause (R57). -/
theorem State.closeForRead_gates_get (s : State) (tag u : Tag) : (s.closeForRead tag).gates[u] =
    if tag = u ∧ s.gates[tag].state.isClosed = false then s.gates[tag].closedForRead (hasGated s.records[tag])
    else s.gates[u] := by
  rw [State.closeForRead]
  by_cases hc : s.gates[tag].state.isClosed = true
  · rw [if_pos hc, if_neg fun h => by rw [hc] at h; cases h.2]
  · have open_gate : s.gates[tag].state.isClosed = false := Bool.not_eq_true _ ▸ hc
    rw [if_neg hc, State.settleTimer_gates_get, State.setGate_get, State.setGate_get, if_pos rfl,
      State.setGate_records, Gate.settleTimer_eq]
    by_cases hu : tag = u
    · have closes : tag = u ∧ s.gates[tag].state.isClosed = false := ⟨hu, open_gate⟩
      rw [if_pos closes, if_pos hu]
      simp only [GateState.isClosed_closed, true_and]
      rfl
    · rw [if_neg hu, if_neg hu, if_neg fun h => hu h.1]

/-- What the gate behind a response-phase evaluation is, and that nothing else has changed. -/
theorem State.closeAsApplied_eq (s : State) (tag : Tag) (a : Action) : ∃ gates : Vector Gate 8,
    s.closeAsApplied tag a = { s with gates := gates }
      ∧ (∀ u : Tag, u ≠ tag → gates[u] = s.gates[u])
      ∧ gates[tag] = if a = .holdAfter ∧ s.gates[tag].state.isClosed = false
          then s.gates[tag].closedForRead (hasGated s.records[tag]) else s.gates[tag] := by
  by_cases ha : a = .holdAfter
  · refine ⟨(s.closeForRead tag).gates, ?_, fun u hu => ?_, ?_⟩
    · rw [State.closeAsApplied, if_pos ha]
      unfold State.closeForRead
      split <;> rfl
    · rw [State.closeForRead_gates_get, if_neg fun h => hu h.1.symm]
    · simp only [State.closeForRead_gates_get, ha, true_and]
  · refine ⟨s.gates, ?_, fun u _ => rfl, ?_⟩
    · rw [State.closeAsApplied, if_neg ha]
    · rw [if_neg fun h => ha h.1]

/-- The response-phase evaluation: the entries, the gate, and the event (R41 to R44). -/
theorem State.judgeResponse_eq (s : State) (tag : Tag) (r : TransitRecord) (data : List Beat) :
    s.judgeResponse tag r data =
      (({ s with
          entries := evaluateEntries s.entries (WatchEntry.judgeResponse tag r data) (r.transaction tag) } :
        State).closeAsApplied tag
          (responseAction s.entries (firedList s.entries (WatchEntry.judgeResponse tag r data)))).report
        s.entries (firedList s.entries (WatchEntry.judgeResponse tag r data))
        (.watchRead (r.transaction tag) (firingOf s.entries (WatchEntry.judgeResponse tag r data)
          (responseAction s.entries (firedList s.entries (WatchEntry.judgeResponse tag r data)))))
        ⟨tag, r.id⟩ := rfl

/-- The action applied is HOLD-AFTER exactly when such an entry fired (R44). -/
theorem responseAction_eq_holdAfter {entries : Vector WatchEntry 16} {fired : List WatchIndex} :
    responseAction entries fired = .holdAfter ↔ ∃ i ∈ fired, entries[i].definition.action = .holdAfter := by
  have some_iff : anyAction entries fired .holdAfter = true
      ↔ ∃ i ∈ fired, entries[i].definition.action = .holdAfter := by simp [anyAction]
  rw [← some_iff, responseAction]
  cases anyAction entries fired .holdAfter <;> simp

/-- The gate and the event of an evaluation on a state whose event unit is that of `s`, with the record `r` among
records of other marks. -/
theorem State.closeAsApplied_report {s a : State} (hu : a.SameUnit s) {tag : Tag} {pre post : List TransitRecord}
    {r : TransitRecord} (hl : a.records[tag] = pre ++ r :: post) (ids : ∀ x ∈ pre ++ post, x.id ≠ r.id)
    (hs : r.stalled = false) (action : Action) (fired : List WatchIndex) (e : Event) :
    ∃ (b : Bool) (gates : Vector Gate 8),
      (b = true ↔ reportsLossless s.entries fired = true ∧ 32 ≤ s.store.length
        ∧ ∀ w ∈ s.waitsPending, w.selector.accepts e = false)
      ∧ (∀ u : Tag, u ≠ tag → gates[u] = a.gates[u])
      ∧ gates[tag] = (if action = .holdAfter ∧ a.gates[tag].state.isClosed = false
          then a.gates[tag].closedForRead (hasGated a.records[tag]) else a.gates[tag])
      ∧ (a.closeAsApplied tag action).report s.entries fired e ⟨tag, r.id⟩ = { a with
          gates := gates
          records := a.records.set tag (pre ++ { r with stalled := b } :: post)
          store := (s.report s.entries fired e ⟨tag, r.id⟩).store
          stalls := (s.report s.entries fired e ⟨tag, r.id⟩).stalls
          lost := (s.report s.entries fired e ⟨tag, r.id⟩).lost
          sequence := (s.report s.entries fired e ⟨tag, r.id⟩).sequence
          waitsPending := (s.report s.entries fired e ⟨tag, r.id⟩).waitsPending
          waitsComplete := (s.report s.entries fired e ⟨tag, r.id⟩).waitsComplete } := by
  obtain ⟨b, stalled_iff, reported⟩ := s.report_of_unit s.entries fired e ⟨tag, r.id⟩
  obtain ⟨gates, closed, other, own⟩ := a.closeAsApplied_eq tag action
  refine ⟨b, gates, stalled_iff, other, own, ?_⟩
  rw [closed, reported { a with gates := gates } hu, State.markStall_if (s := { a with gates := gates }) hl ids hs]

/-- An OK answer to a READ record: its data stand, and they are judged (R87, R88). -/
theorem State.takeAnswer_read {s : State} {slot : SlotIndex} {tag : Tag} {limit : BitVec 16} {timer : Option Nat}
    {data values : List Beat} {pre post : List TransitRecord} {r : TransitRecord}
    (hslot : s.slots[slot] = .busy (.record tag) .read r.beats.toNat limit timer)
    (hl : s.records[tag] = pre ++ r :: post) (hread : r.access = .read) (hr : r.phase = .atMemory slot)
    (alone : ∀ x ∈ pre ++ post, x.phase ≠ .atMemory slot)
    (hv : answerData .read r.beats.toNat data = values) :
    s.takeAnswer slot .ok data = (({ s with
        slots := s.slots.set slot .free
        records := s.records.set tag (pre ++ { r with phase := .answered ⟨.done, values⟩ } :: post) } :
      State).judgeResponse tag r values).offerNext := by
  have answered : r.answeredWith .done values = { r with phase := .answered ⟨.done, values⟩ } := by
    rw [TransitRecord.answeredWith, hread, ← hv, answerData_idem]
  have stands := State.setSlot_answerRecord_eq .free .done values hl hr alone
  rw [answered] at stands
  rw [← stands]
  simp only [State.takeAnswer, hslot, State.answerForRecord, hl, find_inSlot hr alone, memoryValues, hv,
    memoryAnswerCode, and_self, if_true]

/-- Settles O28: the data, the evaluation on the state that holds them, and the mark of a stalled record. -/
theorem answerToReadIsEvaluated : Obligations.AnswerToReadIsEvaluated := by
  intro s slot tag limit timer data pre post r ht hslot hl hread hr hstall ho
  have alone : ∀ x ∈ pre ++ post, x.phase ≠ .atMemory slot := fun x hx => (ho x hx).1
  have others : ∀ x ∈ pre ++ post, x.id ≠ r.id := fun x hx => (ho x hx).2
  obtain ⟨values, hv⟩ : ∃ values, answerData .read r.beats.toNat data = values := ⟨_, rfl⟩
  have taken := State.takeAnswer_read hslot hl hread hr alone hv
  rw [State.judgeResponse_eq] at taken
  have stands : (s.records.set tag (pre ++ { r with phase := .answered ⟨.done, values⟩ } :: post))[tag]
      = pre ++ { r with phase := .answered ⟨.done, values⟩ } :: post := Vector.getElem_set_self _
  obtain ⟨b, gates, stalled_iff, other, own, judged⟩ := State.closeAsApplied_report (s := s)
    (a := { s with
      slots := s.slots.set slot .free
      records := s.records.set tag (pre ++ { r with phase := .answered ⟨.done, values⟩ } :: post)
      entries := evaluateEntries s.entries (WatchEntry.judgeResponse tag r values) (r.transaction tag) })
    (r := { r with phase := .answered ⟨.done, values⟩ }) ⟨rfl, rfl, rfl, rfl, rfl, rfl⟩
    stands others hstall
    (responseAction s.entries (firedList s.entries (WatchEntry.judgeResponse tag r values)))
    (firedList s.entries (WatchEntry.judgeResponse tag r values))
    (.watchRead (r.transaction tag) (firingOf s.entries (WatchEntry.judgeResponse tag r values)
      (responseAction s.entries (firedList s.entries (WatchEntry.judgeResponse tag r values)))))
  have left := taken.trans (congrArg State.offerNext judged)
  have frame := left.trans (State.offerNext_eq (o := s.offer) rfl)
  rw [← left] at frame
  refine ⟨s.takeAnswer slot .ok data, { r with phase := .answered ⟨.done, values⟩, stalled := b }, values,
    State.whenTakingEvents_of ht _, ?_, fun k hk => ?_, ?_⟩
  · rw [← hv, answerData_length, if_pos rfl]
  · rw [← hv, answerData_read, supplied_get _ _ k hk]
  generalize s.takeAnswer slot .ok data = t at frame
  have records : t.records = (s.records.set tag _).set tag _ := congrArg State.records frame
  have gate : t.gates = gates := congrArg State.gates frame
  have behind : hasGated (s.records.set tag (pre ++ { r with phase := .answered ⟨.done, values⟩ } :: post))[tag]
      = hasGated s.records[tag] := by
    rw [stands, hl, hasGated_append, hasGated_append, hasGated_cons, hasGated_cons,
      TransitRecord.isGated_eq_false.2 (by rw [hr]; nofun : r.phase ≠ .gated)]
    rfl
  refine ⟨?_, fun u hu => ⟨?_, ?_⟩, rfl, stalled_iff, ?_, ?_⟩
  · rw [records]; exact Vector.getElem_set_self _
  · rw [records]; simp [hu.symm]
  · rw [gate]; exact other u hu
  · rw [gate]
    exact own.trans (if_congr (and_congr_left' responseAction_eq_holdAfter)
      (congrArg s.gates[tag].closedForRead behind) rfl)
  · generalize ({ t with offer := s.offer } : State).offerNext.offer = offer at frame ⊢
    subst frame
    rfl

end Sys2Proof.Machine
end

section
/-! SUPPORT. The acceptance of a well-formed request (R6): the record at the young end of its tag's list, its
stall, and its meeting with the gate. -/

namespace Sys2Proof.Machine

/-! ## The youngest record at its gate -/

/-- The record `r` behind the records `l` meets the gate at once: it is GATED and not stalled, nothing GATED is
older, and the gate is OPEN or STEPPING (R52, R53). -/
def MeetsGate (g : GateState) (l : List TransitRecord) (r : TransitRecord) : Prop :=
  r.isGated = true ∧ g.isClosed = false ∧ hasGated l = false ∧ r.stalled = false

/-- A held or stalled head keeps every younger record waiting (R53). -/
theorem passRun_waits {g : GateState} {l m : List TransitRecord}
    (law : g.isClosed = true ∨ (headOf l).all (·.stalled) = true) (hl : hasGated l = true) :
    passRun g (l ++ m) = (g, l ++ m) := by
  obtain ⟨pre, h, post, rfl, hpre, hg⟩ := exists_head hl
  rcases law with closed | stalled
  · obtain ⟨c, rfl⟩ := GateState.isClosed_iff.1 closed
    exact passRun_closed c _
  · rw [headOf_append hpre hg, Option.all_some] at stalled
    rw [List.append_assoc, passRun_append g hpre, List.cons_append, passRun_stalled g hg stalled]

/-- A record that does not meet the gate changes nothing. -/
theorem passRun_of_not_meets {g : GateState} {l : List TransitRecord} {r : TransitRecord}
    (law : g.isClosed = true ∨ (headOf l).all (·.stalled) = true) (h : ¬ MeetsGate g l r) :
    passRun g (l ++ [r]) = (g, l ++ [r]) := by
  by_cases hl : hasGated l = true
  · exact passRun_waits law hl
  rw [Bool.not_eq_true] at hl
  rw [passRun_append g hl]
  by_cases hg : r.isGated = true
  · by_cases hs : r.stalled = true
    · rw [passRun_stalled g hg hs]
    · have closed : g.isClosed = true := by
        by_contra hc
        exact h ⟨hg, Bool.not_eq_true _ ▸ hc, hl, Bool.not_eq_true _ ▸ hs⟩
      obtain ⟨c, rfl⟩ := GateState.isClosed_iff.1 closed
      rw [passRun_closed]
  · rw [Bool.not_eq_true] at hg
    rw [passRun_of_none g (by rw [hasGated_cons, hg]; rfl)]

/-- What a consideration makes of the youngest record, which is not READY before it (R52 to R55). -/
theorem passRun_youngest {g : GateState} {l : List TransitRecord} {r : TransitRecord}
    (law : g.isClosed = true ∨ (headOf l).all (·.stalled) = true) (hr : r.phase ≠ .ready) :
    ∃ g' r', passRun g (l ++ [r]) = (g', l ++ [r']) ∧ r' = { r with phase := r'.phase }
      ∧ (r'.phase = .ready ↔ MeetsGate g l r ∧ r.holdsBefore = false)
      ∧ (r'.phase ≠ .ready → r' = r)
      ∧ (MeetsGate g l r → r.holdsBefore = true → g' = .closed .watchBefore)
      ∧ (r'.phase = .ready → g' = g.afterPassage r')
      ∧ (¬ MeetsGate g l r → g' = g) := by
  by_cases hm : MeetsGate g l r
  · obtain ⟨hg, hc, hl, hs⟩ := hm
    by_cases hh : r.holdsBefore = true
    · refine ⟨.closed .watchBefore, r, ?_, rfl, ?_, fun _ => rfl, fun _ _ => rfl, fun h => absurd h hr,
        fun h => absurd ⟨hg, hc, hl, hs⟩ h⟩
      · rw [passRun_append g hl, passRun_holds hg hs hc hh]
      · exact ⟨fun h => absurd h hr, fun h => absurd (hh.symm.trans h.2) nofun⟩
    · rw [Bool.not_eq_true] at hh
      refine ⟨g.afterPassage r, { r with phase := .ready }, ?_, rfl, ?_, fun h => absurd rfl h,
        fun _ h => absurd (h.symm.trans hh) nofun, fun _ => rfl, fun h => absurd ⟨hg, hc, hl, hs⟩ h⟩
      · rw [passRun_append g hl, passRun_passes hg hs hc hh]
        rfl
      · exact ⟨fun _ => ⟨⟨hg, hc, hl, hs⟩, hh⟩, fun _ => rfl⟩
  · exact ⟨g, r, passRun_of_not_meets law hm, rfl, ⟨fun h => absurd h hr, fun h => absurd h.1 hm⟩, fun _ => rfl,
      fun h => absurd h hm, fun h => absurd h hr, fun _ => rfl⟩

/-! ## The record and its event -/

/-- A record that joins the young end of its tag's list on a state whose event unit is that of `s`, and its
event. -/
theorem State.addRecord_report {s a : State} (hu : a.SameUnit s) {tag : Tag} {r : TransitRecord}
    (ids : ∀ x ∈ a.records[tag], x.id ≠ r.id) (hs : r.stalled = false) (fired : List WatchIndex) (e : Event) :
    ∃ b : Bool,
      (b = true ↔ reportsLossless s.entries fired = true ∧ 32 ≤ s.store.length
        ∧ ∀ w ∈ s.waitsPending, w.selector.accepts e = false)
      ∧ (a.addRecord tag r).report s.entries fired e ⟨tag, r.id⟩ = { a with
          records := a.records.set tag (a.records[tag] ++ [{ r with stalled := b }])
          arrival := a.arrival + 1
          nextId := a.nextId + 1
          store := (s.report s.entries fired e ⟨tag, r.id⟩).store
          stalls := (s.report s.entries fired e ⟨tag, r.id⟩).stalls
          lost := (s.report s.entries fired e ⟨tag, r.id⟩).lost
          sequence := (s.report s.entries fired e ⟨tag, r.id⟩).sequence
          waitsPending := (s.report s.entries fired e ⟨tag, r.id⟩).waitsPending
          waitsComplete := (s.report s.entries fired e ⟨tag, r.id⟩).waitsComplete } := by
  obtain ⟨b, stalled_iff, reported⟩ := s.report_of_unit s.entries fired e ⟨tag, r.id⟩
  refine ⟨b, stalled_iff, ?_⟩
  have joined : (a.addRecord tag r).records[tag] = a.records[tag] ++ r :: [] := Vector.getElem_set_self _
  rw [reported (a.addRecord tag r) hu,
    State.markStall_if joined (fun x hx => ids x (by rwa [List.append_nil] at hx)) hs]
  simp only [State.addRecord, State.setRecords, Vector.set_set]

/-- The request-phase evaluation: the entries, the record, and the event (R32, R39, R40). -/
theorem State.judgeRequest_eq (s : State) (tag : Tag) (r : TransitRecord) :
    s.judgeRequest tag r =
      (({ s with
          entries := evaluateEntries s.entries (WatchEntry.judgeRequest tag r) (r.transaction tag) } :
        State).addRecord tag (r.judged
          (decisionOf s.entries (firedList s.entries (WatchEntry.judgeRequest tag r)))
          (firedList s.entries (WatchEntry.judgeRequest tag r)))).report
        s.entries (firedList s.entries (WatchEntry.judgeRequest tag r))
        (.watch (r.transaction tag) (firingOf s.entries (WatchEntry.judgeRequest tag r)
          (decisionOf s.entries (firedList s.entries (WatchEntry.judgeRequest tag r))).applied))
        ⟨tag, r.id⟩ := rfl

/-- A record that was not refused is GATED behind its judgement (R6). -/
theorem TransitRecord.judged_isGated (r : TransitRecord) (decision : Decision) (fired : List WatchIndex) :
    (r.judged decision fired).isGated = true ↔ decision ≠ .refuse := by
  by_cases h : decision = .refuse
  · simp [TransitRecord.judged, h]
  · simp [TransitRecord.judged_phase h, h]

/-- A consideration of a tag whose list has been replaced by `l`, told by the run of passages. -/
theorem State.consider_of_run {s j : State} {tag : Tag} {l l' : List TransitRecord} {g' : GateState}
    (hr : j.records = s.records.set tag l) (hg : j.gates = s.gates)
    (hrun : passRun s.gates[tag].state l = (g', l')) : j.consider tag = { j with
      records := s.records.set tag l'
      gates := s.gates.set tag (({ s.gates[tag] with state := g' } : Gate).settleTimer (hasGated l')) } := by
  have own : (s.records.set tag l)[tag] = l := Vector.getElem_set_self _
  have own' : (s.records.set tag l')[tag] = l' := Vector.getElem_set_self _
  have gate : ∀ g : Gate, (s.gates.set tag g)[tag] = g := fun g => Vector.getElem_set_self _
  simp only [State.consider, State.settleTimer, State.setGate, State.setRecords, hr, hg, own, hrun, Vector.set_set,
    own', gate]

theorem TransitRecord.judged_phase_refuse {r : TransitRecord} (fired : List WatchIndex) :
    (r.judged .refuse fired).phase
      = .answered ⟨.refused, if r.access = .read then List.replicate r.beats.toNat 0 else []⟩ := by
  rw [TransitRecord.judged_refuse, ← answerData_nil]
  rfl

theorem TransitRecord.judged_ne_ready (r : TransitRecord) (decision : Decision) (fired : List WatchIndex) :
    (r.judged decision fired).phase ≠ .ready := by
  by_cases h : decision = .refuse
  · rw [h, TransitRecord.judged_phase_refuse]; nofun
  · rw [TransitRecord.judged_phase h]; nofun

/-- A request with this decision may meet the gate at once: it is not refused, the gate is OPEN or STEPPING, and
nothing GATED is older (R52). -/
abbrev Considered (g : GateState) (l : List TransitRecord) (decision : Decision) : Prop :=
  decision ≠ .refuse ∧ g.isClosed = false ∧ hasGated l = false

theorem meetsGate_judged {g : GateState} {l : List TransitRecord} {r : TransitRecord} {decision : Decision}
    {fired : List WatchIndex} {b : Bool} : MeetsGate g l { r.judged decision fired with stalled := b }
      ↔ Considered g l decision ∧ b = false :=
  ⟨fun ⟨gated, opened, first, free⟩ => ⟨⟨(r.judged_isGated decision fired).1 gated, opened, first⟩, free⟩,
    fun ⟨⟨kept, opened, first⟩, free⟩ => ⟨(r.judged_isGated decision fired).2 kept, opened, first, free⟩⟩

theorem holdsBefore_judged {r : TransitRecord} {decision : Decision} {fired : List WatchIndex} {b : Bool}
    (hr : r.spent = false) : ({ r.judged decision fired with stalled := b } : TransitRecord).holdsBefore = true
      ↔ decision = .holdBefore := by
  simp [TransitRecord.holdsBefore, TransitRecord.judged, hr]

/-- What becomes of a request's record behind its judgement and its stall (R6, R52 to R55). -/
theorem passRun_judged {g : GateState} {l : List TransitRecord} {f : TransitRecord}
    (law : g.isClosed = true ∨ (headOf l).all (·.stalled) = true) (hf : f.spent = false) (decision : Decision)
    (fired : List WatchIndex) (b : Bool) :
    ∃ g' r, passRun g (l ++ [{ f.judged decision fired with stalled := b }]) = (g', l ++ [r])
      ∧ r = { f with decision := decision, fired := fired, phase := r.phase, stalled := b }
      ∧ (decision = .refuse → r.phase
          = .answered ⟨.refused, if f.access = .read then List.replicate f.beats.toNat 0 else []⟩)
      ∧ (decision ≠ .refuse → r.phase = .gated ∨ r.phase = .ready)
      ∧ (r.phase = .ready ↔ Considered g l decision ∧ b = false ∧ decision ≠ .holdBefore)
      ∧ (Considered g l decision → b = false → decision = .holdBefore → g' = .closed .watchBefore)
      ∧ (r.phase = .ready → g' = g.afterPassage r)
      ∧ (¬ (Considered g l decision ∧ b = false) → g' = g) := by
  obtain ⟨g', r, run, same, ready_iff, keeps, holds, passes, stays⟩ := passRun_youngest
    (r := { f.judged decision fired with stalled := b }) law (f.judged_ne_ready decision fired)
  rw [meetsGate_judged] at ready_iff holds stays
  rw [← Bool.not_eq_true (TransitRecord.holdsBefore _), holdsBefore_judged hf, and_assoc] at ready_iff
  rw [holdsBefore_judged hf] at holds
  refine ⟨g', r, run, same, fun h => ?_, fun h => ?_, ready_iff, fun c free => holds ⟨c, free⟩, passes, stays⟩
  · rw [keeps fun hready => (ready_iff.1 hready).1.1 h, h]
    exact TransitRecord.judged_phase_refuse fired
  · by_cases hready : r.phase = .ready
    · exact .inr hready
    · rw [keeps hready]
      exact .inl (TransitRecord.judged_phase h fired)

/-- The gate and the records of a tag whose youngest record is `r` behind a consideration (R70). -/
theorem State.youngest_settled {s t : State} {tag : Tag} {g : GateState} {r : TransitRecord}
    (hr : t.records = s.records.set tag (s.records[tag] ++ [r]))
    (hg : t.gates = s.gates.set tag
      (({ s.gates[tag] with state := g } : Gate).settleTimer (hasGated (s.records[tag] ++ [r])))) :
    t.records[tag] = s.records[tag] ++ [r]
      ∧ (∀ u : Tag, u ≠ tag → t.records[u] = s.records[u] ∧ t.gates[u] = s.gates[u])
      ∧ t.gates[tag].state = g
      ∧ t.gates[tag].limit = s.gates[tag].limit ∧ t.gates[tag].policy = s.gates[tag].policy
      ∧ t.gates[tag].timer
        = (if t.gates[tag].state.isClosed ∧ hasGated t.records[tag] ∧ s.gates[tag].limit ≠ 0
          then some (s.gates[tag].timer.getD (s.gates[tag].limit.toNat * 100)) else none) := by
  have list : t.records[tag] = s.records[tag] ++ [r] := by rw [hr]; exact Vector.getElem_set_self _
  have gate : t.gates[tag] = ({ s.gates[tag] with state := g } : Gate).settleTimer (hasGated t.records[tag]) := by
    rw [hg, list]; exact Vector.getElem_set_self _
  refine ⟨list, fun u hu => ⟨?_, ?_⟩, ?_, ?_, ?_, ?_⟩
  · rw [hr]; simp [hu.symm]
  · rw [hg]; simp [hu.symm]
  · rw [gate, Gate.settleTimer_state]
  · rw [gate, Gate.settleTimer_limit]
  · rw [gate, Gate.settleTimer_policy]
  · rw [gate, Gate.settleTimer_state, Gate.settleTimer_timer]

/-- A well-formed request with room is evaluated, and its tag's head is considered (R6). -/
theorem State.accept_wellFormed {s : State} {tag : Tag} (privilege : Privilege) (address : Addr)
    (body : RequestBody) (hn : s.sysrst = false) (hl : s.records[tag].length < 4)
    (hw : transferWellFormed (bodyAccess body) address (bodyBeats body).toNat (bodyData body) = true) :
    s.accept tag privilege address body
      = ((s.judgeRequest tag (s.freshRecord privilege address body)).consider tag).offerNext := by
  rw [State.accept_eq privilege address body hn hl, if_pos hw]
  rfl

/-- Settles O10: the evaluation, the record with its stall, and its meeting with the gate. -/
theorem wellFormedAcceptance : Obligations.WellFormedAcceptance := by
  intro s tag privilege address body gateLaw stallLaw ht hn hl _ hw fresh judge fired decision event link placed
    considered
  obtain ⟨b, stalled_iff, recorded⟩ := State.addRecord_report (s := s)
    (a := { s with entries := evaluateEntries s.entries judge (fresh.transaction tag) })
    (r := fresh.judged decision fired) ⟨rfl, rfl, rfl, rfl, rfl, rfl⟩
    (fun x hx => Nat.ne_of_lt (((State.stallLaw_iff.1 stallLaw).1 tag).2 x hx).1) rfl fired event
  obtain ⟨g, r, run, same, refused, waits, ready_iff, holds, passes, stays⟩ :=
    passRun_judged (f := fresh) (gateLaw tag).1 rfl decision fired b
  have judged := (s.judgeRequest_eq tag fresh).trans recorded
  have proceeds := (congrArg (State.consider · tag) judged).trans (State.consider_of_run (s := s) rfl rfl run)
  have left := (State.accept_wellFormed privilege address body hn hl hw).trans (congrArg State.offerNext proceeds)
  have frame := left.trans (State.offerNext_eq (o := s.offer) rfl)
  rw [← left] at frame
  refine ⟨s.accept tag privilege address body, r, State.whenTakingEvents_of ht _, ?_⟩
  generalize s.accept tag privilege address body = t at frame
  obtain ⟨list, others, state, limit, policy, timer⟩ := State.youngest_settled (s := s) (t := t) (tag := tag)
    (g := g) (r := r) (congrArg State.records frame) (congrArg State.gates frame)
  have stalled : r.stalled = b := congrArg TransitRecord.stalled same
  subst stalled
  refine ⟨list, others, same, stalled_iff, refused, waits, ready_iff, fun c f h => state.trans (holds c f h),
    fun h => state.trans (passes h), fun h => state.trans (stays h), limit, policy, timer, ?_⟩
  generalize ({ t with offer := s.offer } : State).offerNext.offer = offer at frame ⊢
  subst frame
  rfl

end Sys2Proof.Machine
end

section
/-! SUPPORT. The judgement of one entry: the bytes of a transaction in a range (R34), the data test beat by beat
(R35, R42), and the matches at request phase and at response phase (R33, R41). -/

namespace Sys2Proof.Machine

/-! ## Bytes in a range -/

theorem Definition.covers_iff {d : Definition} {a : Nat} :
    d.covers a = true ↔ d.base.toNat ≤ a ∧ a ≤ d.limit.toNat := by
  simp [Definition.covers]

/-- The byte numbers of a beat, as the model lists them. -/
theorem mem_byteNumbers {k : Nat} : k ∈ [0, 1, 2, 3, 4, 5, 6, 7] ↔ k < 8 :=
  List.mem_range (n := 8)

theorem Definition.coversEnabled_iff {d : Definition} {address : Addr} {b : Nat} {enables : Byte} :
    d.coversEnabled address b enables = true ↔ ∃ k, k < 8 ∧ enables.getLsbD k = true
      ∧ d.base.toNat ≤ address.toNat + 8 * b + k ∧ address.toNat + 8 * b + k ≤ d.limit.toNat := by
  simp only [Definition.coversEnabled, List.any_eq_true, Bool.and_eq_true, Definition.covers_iff, mem_byteNumbers,
    byteAddress]

/-- A beat of returned data has all 8 bytes (R42). -/
theorem Definition.coversEnabled_all_iff {d : Definition} {address : Addr} {b : Nat} :
    d.coversEnabled address b 0xFF = true ↔ ∃ k, k < 8
      ∧ d.base.toNat ≤ address.toNat + 8 * b + k ∧ address.toNat + 8 * b + k ≤ d.limit.toNat := by
  have enabled : ∀ k, k < 8 → (0xFF : Byte).getLsbD k = true := by decide
  rw [Definition.coversEnabled_iff]
  exact exists_congr fun k => and_congr_right fun hk => and_iff_right (enabled k hk)

/-- The `n` bytes from `a` on reach into a range exactly when each of the two begins before the other's end. -/
theorem exists_byte_inRange_iff {a n base limit : Nat} (h : base ≤ limit) :
    (∃ j, j < n ∧ base ≤ a + j ∧ a + j ≤ limit) ↔ 1 ≤ n ∧ a ≤ limit ∧ base + 1 ≤ a + n :=
  ⟨fun ⟨_, _, _, _⟩ => by omega, fun _ => ⟨base - a, by omega⟩⟩

/-- The overlap of a READ (R34). -/
theorem Definition.overlaps_read {d : Definition} {r : TransitRecord} (hr : r.access = .read)
    (h : d.base.toNat ≤ d.limit.toNat) : d.overlaps r = true ↔ ∃ j, j < 8 * r.beats.toNat
      ∧ d.base.toNat ≤ r.address.toNat + j ∧ r.address.toNat + j ≤ d.limit.toNat := by
  rw [exists_byte_inRange_iff h]
  simp only [Definition.overlaps, hr, Bool.and_eq_true, decide_eq_true_eq]
  rw [byteAddress]
  omega

/-- The overlap of a WRITE (R34). -/
theorem Definition.overlaps_write {d : Definition} {r : TransitRecord} (hr : r.access = .write) :
    d.overlaps r = true ↔ ∃ b w, r.writeData[b]? = some w ∧ d.coversEnabled r.address b w.enables = true := by
  simp only [Definition.overlaps, hr, List.any_eq_true, Prod.exists, List.mem_zipIdx_iff_getElem?]
  exact exists_comm

/-! ## The data test -/

/-- The bits of byte `k` of a beat. -/
theorem byteMask_getLsbD {k i : Nat} (hi : i < 64) : (0xFF#64 <<< (8 * k)).getLsbD i = decide (i / 8 = k) := by
  have ones : ∀ j, j < 64 → (0xFF#64).getLsbD j = decide (j < 8) := by decide
  rw [BitVec.getLsbD_shiftLeft, ones _ (by omega), Bool.eq_iff_iff]
  simp only [Bool.and_eq_true, Bool.not_eq_true', decide_eq_true_eq, decide_eq_false_iff_not]
  omega

/-- The data of a beat gathered from the bytes `l` that are enabled, bit by bit. -/
theorem gatherBytes_getLsbD (w : WriteBeat) (l : List Nat) (acc : Beat) {i : Nat} (hi : i < 64) :
    (l.foldl (fun acc k =>
      if w.enables.getLsbD k then acc ||| (w.data &&& (0xFF#64 <<< (8 * k))) else acc) acc).getLsbD i
      = (acc.getLsbD i || (w.data.getLsbD i && w.enables.getLsbD (i / 8) && decide (i / 8 ∈ l))) := by
  induction l generalizing acc with
  | nil => simp
  | cons k ks ih =>
    rw [List.foldl_cons, ih]
    by_cases hk : i / 8 = k
    · subst hk
      split
      · next he => cases hd : w.data.getLsbD i <;> simp [byteMask_getLsbD hi, he, hd]
      · next he => simp [he]
    · split <;> simp [byteMask_getLsbD hi, hk]

/-- Bytes that are not enabled are taken as 00h (R35 condition (b)). -/
theorem enabledData_getLsbD (w : WriteBeat) {i : Nat} (hi : i < 64) :
    (enabledData w).getLsbD i = (w.data.getLsbD i && w.enables.getLsbD (i / 8)) := by
  have place : i / 8 ∈ [0, 1, 2, 3, 4, 5, 6, 7] := mem_byteNumbers.2 (by omega)
  rw [enabledData, gatherBytes_getLsbD w _ 0 hi, decide_eq_true place]
  simp

theorem eq_enabledData_iff {w : WriteBeat} {v : Beat} :
    v = enabledData w ↔ ∀ i, i < 64 → v.getLsbD i = (w.data.getLsbD i && w.enables.getLsbD (i / 8)) := by
  refine ⟨fun h i hi => by rw [h, enabledData_getLsbD w hi], fun h => BitVec.eq_of_getLsbD_eq fun i hi => ?_⟩
  rw [h i hi, enabledData_getLsbD w hi]

/-- The data agrees with the qualifier's value in every bit that the mask selects. -/
theorem qualifierAgrees_iff {q : Qualifier} {v : Beat} : qualifierAgrees q v = true ↔
    ∀ i, i < 64 → q.mask.getLsbD i = true → v.getLsbD i = q.value.getLsbD i := by
  rw [qualifierAgrees, beq_iff_eq]
  constructor
  · intro h i _ hm
    simpa [hm] using congrArg (BitVec.getLsbD · i) h
  · intro h
    refine BitVec.eq_of_getLsbD_eq fun i hi => ?_
    cases hm : q.mask.getLsbD i with
    | false => simp [hm]
    | true => simp [hm, h i hi hm]

/-! ## The lowest beat -/

/-- The first place of a list that passes a test of element and place. -/
theorem find_zipIdx_eq_some {α : Type} {p : α × Nat → Bool} {l : List α} {x : α} {n : Nat} :
    l.zipIdx.find? p = some (x, n) ↔
      l[n]? = some x ∧ p (x, n) = true ∧ ∀ c y, c < n → l[c]? = some y → ¬ p (y, c) = true := by
  simp only [List.find?_eq_some_iff_getElem, List.getElem_zipIdx, List.length_zipIdx, Prod.mk.injEq, zero_add,
    List.getElem?_eq_some_iff, Bool.not_eq_true', Bool.not_eq_true]
  constructor
  · rintro ⟨hp, _, hn, ⟨hx, rfl⟩, hbefore⟩
    exact ⟨⟨hn, hx⟩, hp, fun c y hc ⟨_, hy⟩ => hy ▸ hbefore c hc⟩
  · rintro ⟨⟨hn, hx⟩, hp, hbefore⟩
    exact ⟨hp, n, hn, ⟨hx, rfl⟩, fun c hc => hbefore c _ hc ⟨hc.trans hn, rfl⟩⟩

theorem writeMatch_eq_find (d : Definition) (q : Qualifier) (address : Addr) (b : Nat) (l : List WriteBeat) :
    writeMatch d q address b l = ((l.zipIdx b).find? fun x =>
      d.coversEnabled address x.2 x.1.enables && qualifierAgrees q (enabledData x.1)).map
        fun x => ⟨x.2, enabledData x.1⟩ := by
  induction l generalizing b with
  | nil => rfl
  | cons w ws ih =>
    cases h : d.coversEnabled address b w.enables && qualifierAgrees q (enabledData w) <;>
      simp [writeMatch, ih, h]

theorem readMatch_eq_find (d : Definition) (q : Qualifier) (address : Addr) (b : Nat) (l : List Beat) :
    readMatch d q address b l = ((l.zipIdx b).find? fun x =>
      d.coversEnabled address x.2 0xFF && qualifierAgrees q x.1).map fun x => ⟨x.2, x.1⟩ := by
  induction l generalizing b with
  | nil => rfl
  | cons v vs ih =>
    cases h : d.coversEnabled address b 0xFF && qualifierAgrees q v <;>
      simp only [readMatch, List.zipIdx_cons, List.find?_cons, ih, h] <;> rfl

/-- A WRITE matches with the lowest beat that passes the data test (R35). -/
theorem writeMatch_eq_some {d : Definition} {q : Qualifier} {address : Addr} {l : List WriteBeat}
    {m : MatchedBeat} : writeMatch d q address 0 l = some m ↔ ∃ b w, m = ⟨b, enabledData w⟩ ∧ l[b]? = some w
      ∧ (d.coversEnabled address b w.enables && qualifierAgrees q (enabledData w)) = true
      ∧ ∀ c x, c < b → l[c]? = some x →
          ¬ (d.coversEnabled address c x.enables && qualifierAgrees q (enabledData x)) = true := by
  simp only [writeMatch_eq_find, Option.map_eq_some_iff, Prod.exists, find_zipIdx_eq_some]
  rw [exists_comm]
  simp only [eq_comm (b := m), and_comm (b := m = _)]

/-- Returned data matches with the lowest beat that passes the data test (R42). -/
theorem readMatch_eq_some {d : Definition} {q : Qualifier} {address : Addr} {l : List Beat}
    {m : MatchedBeat} : readMatch d q address 0 l = some m ↔ ∃ b v, m = ⟨b, v⟩ ∧ l[b]? = some v
      ∧ (d.coversEnabled address b 0xFF && qualifierAgrees q v) = true
      ∧ ∀ c x, c < b → l[c]? = some x → ¬ (d.coversEnabled address c 0xFF && qualifierAgrees q x) = true := by
  simp only [readMatch_eq_find, Option.map_eq_some_iff, Prod.exists, find_zipIdx_eq_some]
  rw [exists_comm]
  simp only [eq_comm (b := m), and_comm (b := m = _)]

/-! ## Matches -/

theorem PrivilegeFilter.passes_iff {f : PrivilegeFilter} {p : Privilege} : f.passes p = true ↔
    f = .any ∨ f = .user ∧ p = .user ∨ f = .supervisor ∧ p = .supervisor := by
  cases f <;> simp [PrivilegeFilter.passes]

theorem AccessFilter.agrees_iff {f : AccessFilter} {a : Access} : f.agrees a = true ↔
    f = .either ∨ f = .read ∧ a = .read ∨ f = .write ∧ a = .write := by
  cases f <;> simp [AccessFilter.agrees]

theorem WatchEntry.admits_iff {e : WatchEntry} {tag : Tag} {r : TransitRecord} : e.admits tag r = true ↔
    e.state = .live ∧ e.definition.tags.getLsbD tag.val = true
      ∧ (e.definition.privilege = .any ∨ e.definition.privilege = .user ∧ r.privilege = .user
        ∨ e.definition.privilege = .supervisor ∧ r.privilege = .supervisor) := by
  simp only [WatchEntry.admits, Bool.and_eq_true, beq_iff_eq, PrivilegeFilter.passes_iff, and_assoc]

theorem Judgement.ofBeat_eq_hit {o m : Option MatchedBeat} :
    Judgement.ofBeat o = .hit m ↔ ∃ x, m = some x ∧ o = some x := by
  cases o with
  | none => simp [Judgement.ofBeat]
  | some x => simp [Judgement.ofBeat, eq_comm]

section Phases

variable {e : WatchEntry} {tag : Tag} {r : TransitRecord} {data : List Beat}

/-- An entry without a qualifier matches by its filters and the overlap alone (R33). -/
theorem WatchEntry.judgeRequest_plain (hq : e.definition.qualifier = none) : e.judgeRequest tag r =
    if e.admits tag r && e.definition.access.agrees r.access && e.definition.overlaps r then .hit none
    else .noMatch := by
  simp only [WatchEntry.judgeRequest, hq]

/-- A data-qualified READ entry is not judged at request phase (R33). -/
theorem WatchEntry.judgeRequest_qualified_read {q : Qualifier} (hq : e.definition.qualifier = some q)
    (ha : e.definition.access = .read) : e.judgeRequest tag r = .noMatch := by
  simp [WatchEntry.judgeRequest, hq, ha]

/-- A data-qualified WRITE entry matches with the beat that passes the data test; such a beat lies in the range, so
the overlap asks no more (R33, R35). -/
theorem WatchEntry.judgeRequest_qualified_write {q : Qualifier} (hq : e.definition.qualifier = some q)
    (ha : e.definition.access = .write) {m : Option MatchedBeat} : e.judgeRequest tag r = .hit m ↔
      e.admits tag r = true ∧ r.access = .write
        ∧ ∃ x, m = some x ∧ writeMatch e.definition q r.address 0 r.writeData = some x := by
  have judged : e.judgeRequest tag r = if e.admits tag r && (r.access == .write) && e.definition.overlaps r then
      .ofBeat (writeMatch e.definition q r.address 0 r.writeData) else .noMatch := by
    simp [WatchEntry.judgeRequest, hq, ha, AccessFilter.agrees]
  rw [judged]
  constructor
  · intro h
    split at h
    · next hc =>
      simp only [Bool.and_eq_true, beq_iff_eq] at hc
      exact ⟨hc.1.1, hc.1.2, Judgement.ofBeat_eq_hit.1 h⟩
    · cases h
  · rintro ⟨hadmits, hw, x, hm, hx⟩
    obtain ⟨b, w, -, hb, htest, -⟩ := writeMatch_eq_some.1 hx
    have overlap : e.definition.overlaps r = true :=
      (Definition.overlaps_write hw).2 ⟨b, w, hb, (Bool.and_eq_true _ _ ▸ htest).1⟩
    rw [if_pos (by simp [hadmits, hw, overlap])]
    exact Judgement.ofBeat_eq_hit.2 ⟨x, hm, hx⟩

/-- Only a data-qualified READ entry is judged at response phase (R41). -/
theorem WatchEntry.judgeResponse_other (h : e.definition.qualifier = none ∨ e.definition.access = .write) :
    e.judgeResponse tag r data = .noMatch := by
  rcases h with h | h <;> simp [WatchEntry.judgeResponse, h]

theorem WatchEntry.judgeResponse_qualified_read {q : Qualifier} (hq : e.definition.qualifier = some q)
    (ha : e.definition.access = .read) {m : Option MatchedBeat} : e.judgeResponse tag r data = .hit m ↔
      e.admits tag r = true ∧ ∃ x, m = some x ∧ readMatch e.definition q r.address 0 data = some x := by
  cases hadmits : e.admits tag r with
  | false => simp [WatchEntry.judgeResponse, hadmits]
  | true => simp [WatchEntry.judgeResponse, hadmits, hq, ha, Judgement.ofBeat_eq_hit]

end Phases

/-- Settles O14: entries without a qualifier by the overlap, data-qualified ones by the lowest beat that passes. -/
theorem matchingByAnEntry : Obligations.MatchingByAnEntry := by
  intro e tag r data range d inRange passes agrees enabledByte masked overlap
  have overlaps : e.definition.overlaps r = true ↔ overlap := by
    cases hr : r.access with
    | read =>
      rw [Definition.overlaps_read hr range]
      exact ⟨fun h => ⟨fun _ => h, fun hw => (nomatch hr.symm.trans hw)⟩, fun h => h.1 hr⟩
    | write =>
      simp only [Definition.overlaps_write hr, Definition.coversEnabled_iff]
      exact ⟨fun h => ⟨fun hw => (nomatch hr.symm.trans hw), fun _ => h⟩, fun h => h.2 hr⟩
  refine ⟨fun hq => ?_, fun q hq ha => ?_, fun q hq ha => ?_⟩
  · have cond : (e.admits tag r && e.definition.access.agrees r.access && e.definition.overlaps r) = true
        ↔ passes ∧ agrees ∧ overlap := by
      rw [Bool.and_eq_true, Bool.and_eq_true, WatchEntry.admits_iff, AccessFilter.agrees_iff, overlaps, and_assoc]
    rw [WatchEntry.judgeRequest_plain hq, ← cond]
    refine ⟨?_, ?_, WatchEntry.judgeResponse_other (.inl hq)⟩ <;> split <;> simp [*]
  · intro test
    refine ⟨fun m => ?_, WatchEntry.judgeResponse_other (.inr ha)⟩
    have passed : ∀ b w, (e.definition.coversEnabled r.address b w.enables
        && qualifierAgrees q (enabledData w)) = true ↔ test b w := by
      intro b w
      rw [Bool.and_eq_true, Definition.coversEnabled_iff, qualifierAgrees_iff]
      exact and_congr_right fun _ => forall₂_congr fun i hi => by rw [enabledData_getLsbD w hi]
    rw [WatchEntry.judgeRequest_qualified_write hq ha, WatchEntry.admits_iff]
    refine and_congr_right fun _ => and_congr_right fun _ => ?_
    simp only [writeMatch_eq_some, passed]
    constructor
    · rintro ⟨_, rfl, b, w, rfl, hb, htest, hbefore⟩
      exact ⟨b, w, _, rfl, hb, htest, eq_enabledData_iff.1 rfl, hbefore⟩
    · rintro ⟨b, w, v, rfl, hb, htest, hv, hbefore⟩
      exact ⟨_, rfl, b, w, by rw [eq_enabledData_iff.2 hv], hb, htest, hbefore⟩
  · intro test
    refine ⟨WatchEntry.judgeRequest_qualified_read hq ha, fun m => ?_⟩
    have passed : ∀ b v, (e.definition.coversEnabled r.address b 0xFF && qualifierAgrees q v) = true ↔ test b v := by
      intro b v
      rw [Bool.and_eq_true, Definition.coversEnabled_all_iff, qualifierAgrees_iff]
    rw [WatchEntry.judgeResponse_qualified_read hq ha, WatchEntry.admits_iff]
    refine and_congr_right fun _ => ?_
    simp only [readMatch_eq_some, passed]
    constructor
    · rintro ⟨_, rfl, b, v, rfl, hb, htest, hbefore⟩
      exact ⟨b, v, rfl, hb, htest, hbefore⟩
    · rintro ⟨b, v, rfl, hb, htest, hbefore⟩
      exact ⟨_, rfl, b, v, rfl, hb, htest, hbefore⟩

end Sys2Proof.Machine
end

section
/-! SUPPORT. Evaluations of the watch table: what one leaves of each entry (R36, R37), and the decision, the report
and the matched beat it hands on (R38 to R40, R43, R44). -/

namespace Sys2Proof.Machine

/-! ## One entry in an evaluation -/

/-- An entry that is not LIVE does not match (R29). -/
theorem WatchEntry.not_judged {e : WatchEntry} {tag : Tag} {r : TransitRecord} {data : List Beat}
    (h : e.state ≠ .live) : e.judgeRequest tag r = .noMatch ∧ e.judgeResponse tag r data = .noMatch := by
  have shut : e.admits tag r = false := by
    rw [← Bool.not_eq_true]
    exact fun ha => h (e.live_of_admits ha)
  simp [WatchEntry.judgeRequest, WatchEntry.judgeResponse, shut]

/-- The entry fires when it matched with no skips left (R37). -/
theorem WatchEntry.firesOn_iff {e : WatchEntry} {j : Judgement} :
    e.firesOn j = true ↔ e.skips = 0 ∧ ∃ m, j = .hit m := by
  cases j <;> simp [WatchEntry.firesOn]

/-- A match with skips left uses one up (R37). -/
theorem WatchEntry.afterJudgement_skips {e : WatchEntry} (t : Transaction) (m : Option MatchedBeat)
    (h : e.skips ≠ 0) :
    e.afterJudgement t (.hit m) = { e with latch := some ⟨t, m⟩, skips := e.skips - 1 } := by
  rw [WatchEntry.afterJudgement, if_neg (by simpa using h)]

/-- The fire count rises and stays at 65535 (R37). -/
theorem fires_saturate (n : BitVec 16) :
    (if n = 0xFFFF then n else n + 1) = BitVec.ofNat 16 (min 65535 (n.toNat + 1)) := by
  split
  · next h => subst h; rfl
  · next h =>
    have below : n.toNat ≠ 65535 := fun hn => h (BitVec.eq_of_toNat_eq hn)
    have bound := n.isLt
    rw [Nat.min_eq_right (by omega), BitVec.ofNat_add, BitVec.ofNat_toNat, BitVec.setWidth_eq]
    rfl

/-- A match with no skips left fires (R37). -/
theorem WatchEntry.afterJudgement_fires {e : WatchEntry} (t : Transaction) (m : Option MatchedBeat)
    (h : e.skips = 0) : e.afterJudgement t (.hit m) = { e with
      latch := some ⟨t, m⟩
      fires := BitVec.ofNat 16 (min 65535 (e.fires.toNat + 1))
      state := if e.definition.once then .spent else e.state } := by
  simp only [WatchEntry.afterJudgement, h, beq_self_eq_true, if_true, fires_saturate]

/-- An entry is armed when it was DORMANT and a fired entry names it (R37). -/
theorem armedBy_iff {entries : Vector WatchEntry 16} {fired : List WatchIndex} {i : WatchIndex} :
    armedBy entries fired i = true ↔
      entries[i].state = .dormant ∧ ∃ j ∈ fired, entries[j].definition.arms = some i := by
  simp [armedBy]

/-- The fired list is ascending (R38). -/
theorem firedList_ascending (entries : Vector WatchEntry 16) (judge : WatchEntry → Judgement) :
    (firedList entries judge).Pairwise (· < ·) :=
  List.Pairwise.filter _ (by decide : allWatches.Pairwise (· < ·))

/-- Settles O15: an armed entry is not LIVE, so it is not judged; every other is as its judgement leaves it. -/
theorem evaluationOfAnEntry : Obligations.EvaluationOfAnEntry := by
  refine ⟨fun e tag r data h => WatchEntry.not_judged h, fun entries judge x hlive =>
    ⟨firedList_ascending entries judge, fun i => ?_⟩⟩
  intro e e' armed
  have own : ¬ armed → e' = e.afterJudgement x (judge e) := fun h =>
    (evaluateEntries_get entries judge x i).trans (if_neg (armedBy_iff.not.2 h))
  have judged : ∀ {m}, judge e = .hit m → ¬ armed := by
    rintro m hm ⟨hd, -⟩
    have dormant : e.state ≠ .live := by rw [show e.state = .dormant from hd]; nofun
    exact nomatch hm.symm.trans (hlive e dormant)
  refine ⟨mem_firedList.trans WatchEntry.firesOn_iff, fun h => ?_, fun hn h => ?_, fun m hm hs => ?_,
    fun m hm hs => ?_⟩
  · exact (evaluateEntries_get entries judge x i).trans (if_pos (armedBy_iff.2 h))
  · rw [own h, hn]; rfl
  · rw [own (judged hm), hm, WatchEntry.afterJudgement_skips x m hs]
  · rw [own (judged hm), hm, WatchEntry.afterJudgement_fires x m hs]

/-! ## What an evaluation hands on -/

theorem anyAction_iff {entries : Vector WatchEntry 16} {fired : List WatchIndex} {a : Action} :
    anyAction entries fired a = true ↔ ∃ i ∈ fired, entries[i].definition.action = a := by
  simp [anyAction]

theorem reports_iff {entries : Vector WatchEntry 16} {fired : List WatchIndex} :
    reports entries fired = true ↔ ∃ i ∈ fired, entries[i].definition.report ≠ .none := by
  simp [reports]

theorem reportsLossless_iff {entries : Vector WatchEntry 16} {fired : List WatchIndex} :
    reportsLossless entries fired = true ↔ ∃ i ∈ fired, entries[i].definition.report = .lossless := by
  simp [reportsLossless]

section Decision

variable {entries : Vector WatchEntry 16} {fired : List WatchIndex}

/-- A fired list without the three stronger actions is all NOTE. -/
theorem all_note_iff : (∀ i ∈ fired, entries[i].definition.action = .note) ↔
    ¬ anyAction entries fired .refuse = true ∧ ¬ anyAction entries fired .holdBefore = true
      ∧ ¬ anyAction entries fired .holdAfter = true := by
  simp only [anyAction_iff, not_exists, not_and, ← forall₂_and]
  refine forall₂_congr fun i _ => ?_
  cases entries[i].definition.action <;> simp

/-- A fired list of NOTE entries has the action NOTE unless it is empty. -/
theorem anyAction_note (hf : fired ≠ []) (h : ∀ i ∈ fired, entries[i].definition.action = .note) :
    anyAction entries fired .note = true := by
  obtain ⟨i, hi⟩ := List.exists_mem_of_ne_nil fired hf
  exact anyAction_iff.2 ⟨i, hi, h i hi⟩

/-- Each decision by the actions that some fired entry has (R38). -/
theorem decisionOf_iff (entries : Vector WatchEntry 16) (fired : List WatchIndex) :
    (decisionOf entries fired = .refuse ↔ anyAction entries fired .refuse = true)
    ∧ (decisionOf entries fired = .holdBefore ↔
        anyAction entries fired .holdBefore = true ∧ ¬ anyAction entries fired .refuse = true)
    ∧ (decisionOf entries fired = .holdAfter ↔ anyAction entries fired .holdAfter = true
        ∧ ¬ anyAction entries fired .refuse = true ∧ ¬ anyAction entries fired .holdBefore = true)
    ∧ (decisionOf entries fired = .note ↔ fired ≠ [] ∧ ∀ i ∈ fired, entries[i].definition.action = .note)
    ∧ (decisionOf entries fired = .none ↔ fired = []) := by
  by_cases hf : fired = []
  · subst hf
    simp [decisionOf, anyAction]
  · have note := anyAction_note (entries := entries) hf
    rw [all_note_iff] at note ⊢
    rw [decisionOf]
    split
    · next hr => simp [hr, hf]
    split
    · next hr hb => simp [hr, hb, hf]
    split
    · next hr hb ha => simp [hr, hb, ha, hf]
    · next hr hb ha => simp [hr, hb, ha, note ⟨hr, hb, ha⟩, hf]

end Decision

/-- The action applied of a decision: its own where it is one of the three stronger ones, else NOTE (R40). -/
theorem Decision.applied_iff (d : Decision) : (d.applied = .refuse ↔ d = .refuse)
    ∧ (d.applied = .holdBefore ↔ d = .holdBefore) ∧ (d.applied = .holdAfter ↔ d = .holdAfter)
    ∧ (d.applied = .note ↔ d ≠ .refuse ∧ d ≠ .holdBefore ∧ d ≠ .holdAfter) := by
  cases d <;> simp [Decision.applied]

/-- Without a data-qualified entry in the fired list an event carries no matched beat (R40, R44). -/
theorem eventBeat_none {entries : Vector WatchEntry 16} {judge : WatchEntry → Judgement} {fired : List WatchIndex}
    (h : ∀ i ∈ fired, entries[i].definition.qualifier = none) : eventBeat entries judge fired = none := by
  have unqualified : fired.find? (fun i => entries[i].definition.qualifier.isSome) = none := by simpa using h
  simp only [eventBeat, unqualified]

/-- The matched beat is that of the lowest-indexed data-qualified entry of an ascending fired list (R40, R44). -/
theorem eventBeat_lowest {entries : Vector WatchEntry 16} {judge : WatchEntry → Judgement} {fired : List WatchIndex}
    (ascending : fired.Pairwise (· < ·)) {i : WatchIndex} (hi : i ∈ fired)
    (hq : entries[i].definition.qualifier ≠ none)
    (lowest : ∀ j ∈ fired, entries[j].definition.qualifier ≠ none → i ≤ j) :
    eventBeat entries judge fired = (judge entries[i]).beat? := by
  obtain ⟨pre, post, rfl⟩ := List.append_of_mem hi
  have below : ∀ j ∈ pre, j < i := fun j hj =>
    (List.pairwise_append.1 ascending).2.2 j hj i List.mem_cons_self
  have unqualified : ∀ j ∈ pre, entries[j].definition.qualifier.isSome = false := fun j hj => by
    rw [← Bool.not_eq_true, Option.isSome_iff_ne_none]
    exact fun h => absurd (below j hj) (lowest j (List.mem_append_left _ hj) h).not_gt
  have found : (pre ++ i :: post).find? (fun i => entries[i].definition.qualifier.isSome) = some i :=
    find_append unqualified (Option.isSome_iff_ne_none.2 hq)
  simp only [eventBeat, found]

/-- Settles O16, by the cases of the decision and the first data-qualified entry of the ascending fired list. -/
theorem decisionIsStrongestAction : Obligations.DecisionIsStrongestAction := by
  intro entries judge fired has
  have has_iff : ∀ a, has a ↔ anyAction entries fired a = true := fun a => anyAction_iff.symm
  obtain ⟨refuse, before, after, note, empty⟩ := decisionOf_iff entries fired
  obtain ⟨ap_refuse, ap_before, ap_after, ap_note⟩ := (decisionOf entries fired).applied_iff
  simp only [← has_iff] at refuse before after
  have response_after : responseAction entries fired = .holdAfter ↔ has .holdAfter := responseAction_eq_holdAfter
  have response_note : responseAction entries fired = .note ↔ ¬ has .holdAfter := by
    rw [← response_after, responseAction]
    split <;> simp
  refine ⟨refuse, before, after, note, empty, ap_refuse.trans refuse, ap_before.trans before, ap_after.trans after,
    ?_, response_after, response_note, reports_iff, reportsLossless_iff, fun a => ?_⟩
  · rw [ap_note, Ne, Ne, Ne, refuse, before, after]
    exact ⟨fun ⟨r, b, a⟩ => ⟨r, fun h => b ⟨h, r⟩, fun h => a ⟨h, r, fun hb => b ⟨hb, r⟩⟩⟩,
      fun ⟨r, b, a⟩ => ⟨r, fun h => b h.1, fun h => a h.1⟩⟩
  · intro f
    have matched : f.matched = eventBeat entries judge fired := rfl
    rw [matched]
    refine ⟨rfl, rfl, ?_, eventBeat_none, fun i hi hq lowest => ?_⟩
    · exact Bool.or_eq_true_iff.trans (or_congr beq_iff_eq beq_iff_eq)
    · rw [eventBeat_lowest (firedList_ascending entries judge) hi hq lowest]
      cases judge entries[i] <;> rfl

end Sys2Proof.Machine
end

section
/-! SUPPORT. The requests of the watch table: the field codes of a definition (10.3, R183) and its permission (R27),
WATCH-WRITE (R28) and WATCH-STATE (R30, R31). -/

namespace Sys2Proof.Machine

/-! ## Field codes -/

/-- A reader of one-byte codes that reads back every code of a writer, and takes a value from no other byte, reads
exactly those codes. -/
theorem code_eq_some {α : Type} {read : Byte → Option α} {code : α → Byte} (back : ∀ a, read (code a) = some a)
    (only : ∀ b a, read b = some a → b.toNat = (code a).toNat) {b : Byte} {a : α} :
    read b = some a ↔ b = code a :=
  ⟨fun h => BitVec.eq_of_toNat_eq (only b a h), fun h => h ▸ back a⟩

theorem accessFilterOf_eq_some {b : Byte} {a : AccessFilter} : accessFilterOf b = some a ↔ b = a.code := by
  refine code_eq_some (fun a => by cases a <;> rfl) fun b a h => ?_
  unfold accessFilterOf at h
  split at h <;> cases h <;> assumption

theorem privilegeFilterOf_eq_some {b : Byte} {p : PrivilegeFilter} : privilegeFilterOf b = some p ↔ b = p.code := by
  refine code_eq_some (fun p => by cases p <;> rfl) fun b p h => ?_
  unfold privilegeFilterOf at h
  split at h <;> cases h <;> assumption

theorem actionOf_eq_some {b : Byte} {a : Action} : actionOf b = some a ↔ b = a.code := by
  refine code_eq_some (fun a => by cases a <;> rfl) fun b a h => ?_
  unfold actionOf at h
  split at h <;> cases h <;> assumption

theorem reportOf_eq_some {b : Byte} {r : Report} : reportOf b = some r ↔ b = r.code := by
  refine code_eq_some (fun r => by cases r <;> rfl) fun b r h => ?_
  unfold reportOf at h
  split at h <;> cases h <;> assumption

theorem startLiveOf_eq_some {b : Byte} {l : Bool} : startLiveOf b = some l ↔ b = if l then 0x02 else 0x01 := by
  refine code_eq_some (code := fun l : Bool => if l then 0x02 else 0x01) (fun l => by cases l <;> rfl) fun b l h => ?_
  unfold startLiveOf at h
  split at h <;> cases h <;> assumption

theorem yesNoOf_eq_some {b : Byte} {y : Bool} : yesNoOf b = some y ↔ b = if y then 0x01 else 0x00 := by
  refine code_eq_some (code := fun y : Bool => if y then 0x01 else 0x00) (fun y => by cases y <;> rfl) fun b y h => ?_
  unfold yesNoOf at h
  split at h <;> cases h <;> assumption

theorem watchOf_eq_some {b : Byte} {i : WatchIndex} : watchOf b = some i ↔ b = byteOf i.val := by
  refine code_eq_some (code := fun i : WatchIndex => byteOf i.val) (fun i => by simp [watchOf]) fun b i h => ?_
  simp only [watchOf, Option.dite_none_right_eq_some, Option.some.injEq] at h
  obtain ⟨_, rfl⟩ := h
  rw [byteOf_toNat_watch]

theorem armsOf_eq_some {raw : Option Byte} {a : Option WatchIndex} :
    armsOf raw = some a ↔ raw = a.map fun i => byteOf i.val := by
  cases raw <;> cases a <;> simp [armsOf, watchOf_eq_some]

/-- A definition is read exactly from its own field codes, with the upper bits of the presence mark clear
(R27, R183). -/
theorem definitionOf_eq_some {raw : RawDefinition} {d : Definition} : definitionOf raw = some d ↔
    raw.base = d.base ∧ raw.limit = d.limit ∧ raw.access = d.access.code ∧ raw.tags = d.tags
      ∧ raw.privilege = d.privilege.code ∧ raw.action = d.action.code ∧ raw.report = d.report.code
      ∧ raw.start = (if d.startLive then 0x02 else 0x01) ∧ raw.once = (if d.once then 0x01 else 0x00)
      ∧ raw.markHigh = 0 ∧ raw.qualifier = d.qualifier ∧ raw.skip = d.skip
      ∧ raw.arms = d.arms.map fun i => byteOf i.val := by
  simp only [definitionOf, Option.bind_eq_bind, Option.bind_eq_some_iff, accessFilterOf_eq_some,
    privilegeFilterOf_eq_some, actionOf_eq_some, reportOf_eq_some, startLiveOf_eq_some, yesNoOf_eq_some,
    armsOf_eq_some, Option.ite_none_right_eq_some, Option.some.injEq]
  constructor
  · rintro ⟨_, access, _, privilege, _, action, _, report, _, start, _, once, _, arms, mark, rfl⟩
    exact ⟨rfl, rfl, access, rfl, privilege, action, report, start, once, mark, rfl, rfl, arms⟩
  · rintro ⟨base, limit, access, tags, privilege, action, report, start, once, mark, qualifier, skip, arms⟩
    refine ⟨_, access, _, privilege, _, action, _, report, _, start, _, once, _, arms, mark, ?_⟩
    rw [base, limit, tags, qualifier, skip]

/-- The permission of a definition, test by test (R27). -/
theorem Definition.permitted_iff {i : WatchIndex} {d : Definition} : d.permitted i = true ↔
    d.base.toNat ≤ d.limit.toNat ∧ d.tags ≠ 0 ∧ ¬ (d.qualifier ≠ none ∧ d.access = .either)
      ∧ d.arms ≠ some i
      ∧ ¬ (d.access = .read ∧ d.qualifier ≠ none ∧ (d.action = .holdBefore ∨ d.action = .refuse)) := by
  simp only [Definition.permitted, Bool.and_eq_true, Bool.or_eq_true, Bool.not_eq_true', ← Bool.not_eq_true,
    decide_eq_true_eq, bne_iff_ne, beq_iff_eq, Option.isSome_iff_ne_none, and_assoc]

/-! ## Requests that write one entry -/

/-- A refusal of a block as it stands on the link, with its frame taken (R159, R164, R169). -/
theorem State.request_refuse_responds {s : State} (h : s.takesPeriods = true) {code : Byte} {payload : List Byte}
    {status : Status} {act : State → State × Reply} (ha : act s = (s, .refuse status)) :
    ∃ t, s.request (frame code payload) act = .next t ∧ t.Responds code payload status.code []
      ∧ t = s.withLinkOf t := by
  rw [State.request_of_taken h, ha]
  refine ⟨_, rfl, ⟨rfl, rfl, ?_, ?_⟩, rfl⟩ <;> simp [State.endPeriod, frame]

/-- An OK reply of a request that has replaced one entry: the entry, the others, and the rest of the part. -/
theorem State.request_setEntry {s : State} (h : s.takesPeriods = true) {code : Byte} {payload : List Byte}
    {act : WatchIndex → State → State × Reply} {i : WatchIndex} {e : WatchEntry}
    (ha : act i s = (s.setEntry i e, .ok [])) :
    ∃ t, s.request (frame code payload) (withEntry (byteOf i.val) act) = .next t
      ∧ t.Responds code payload 0x00 [] ∧ t.entries[i] = e ∧ (∀ j : WatchIndex, j ≠ i → t.entries[j] = s.entries[j])
      ∧ t = ({ s with entries := t.entries } : State).withLinkOf t := by
  obtain ⟨t, hx, hr, hf⟩ := State.request_ok h (code := code) (payload := payload)
    ((withEntry_byteOf i act s).trans ha)
  have entries : t.entries = (s.setEntry i e).entries := by rw [hf]; rfl
  refine ⟨t, hx, hr, ?_, fun j hj => ?_, ?_⟩
  · rw [entries, State.setEntry_get, if_pos rfl]
  · rw [entries, State.setEntry_get, if_neg hj.symm]
  · rw [entries]; exact hf

/-- Settles O17: the field codes, the permission, and the one entry written. -/
theorem watchWriteReplacesEntry : Obligations.WatchWriteReplacesEntry := by
  refine ⟨fun raw d => definitionOf_eq_some, fun i d => Definition.permitted_iff, fun s i raw d hp hd hpermit => ?_⟩
  refine State.request_setEntry hp (e := .written d) ?_
  simp only [watchWriteAct, hd, hpermit, if_true]

/-- WATCH-STATE on a defined entry (R30, R31). -/
theorem watchStateAct_eq {s : State} {i : WatchIndex} {parameter : Byte} {e : WatchEntry}
    (hd : s.entries[i].undefined = false) (hc : watchStateChange parameter s.entries[i] = some e) :
    watchStateAct parameter i s = (s.setEntry i e, .ok []) := by
  simp only [watchStateAct, hc, hd, Bool.false_eq_true, if_false]

/-- A parameter above 3 is none of the four (R30). -/
theorem watchStateChange_none {parameter : Byte} (h : 4 ≤ parameter.toNat) (e : WatchEntry) :
    watchStateChange parameter e = none := by
  unfold watchStateChange
  split <;> [omega; omega; omega; omega; rfl]

/-- Settles O18, parameter by parameter. -/
theorem watchStateSetsEntry : Obligations.WatchStateSetsEntry := by
  refine ⟨fun s i hp hd c parameter state skips hc => ?_, fun s i parameter hp h4 => ?_⟩
  · rcases hc with ⟨rfl, rfl, rfl, rfl⟩ | ⟨rfl, rfl, rfl, rfl⟩ | ⟨rfl, rfl, rfl, rfl⟩ | ⟨rfl, rfl, rfl, rfl⟩ <;>
      exact State.request_setEntry hp (watchStateAct_eq hd rfl)
  · have act : withEntry (byteOf i.val) (watchStateAct parameter) s = (s, .refuse .badValue) := by
      rw [withEntry_byteOf, watchStateAct, watchStateChange_none h4]
    exact State.request_refuse_responds hp act

end Sys2Proof.Machine
end

section
/-! SUPPORT. Requests that change nothing outside the link: the refusals of the watch table and the gate unit (R169),
and the requests that read (R47, R66, R76, R111, R170). -/

namespace Sys2Proof.Machine

/-! ## Refusals -/

/-- A request that names an index above 15 is refused, whatever it asks (R27, R30, R47). -/
theorem State.request_index_above {s : State} (h : s.takesPeriods = true) {index : Byte} (hi : 16 ≤ index.toNat)
    (bytes : List Byte) (act : WatchIndex → State → State × Reply) :
    ∃ t, s.request bytes (withEntry index act) = .next t ∧ t = s.withLinkOf t ∧ t.held = .preparing (frame 0x03 []) :=
  State.request_refuse (status := .badIndex) h (withEntry_above hi act s)

/-- A request that names a tag above 7 is refused, whatever it asks (R59). -/
theorem State.request_tag_above {s : State} (h : s.takesPeriods = true) {tag : Byte} (ht : 8 ≤ tag.toNat)
    (bytes : List Byte) (act : Tag → State → State × Reply) :
    ∃ t, s.request bytes (withTag tag act) = .next t ∧ t = s.withLinkOf t ∧ t.held = .preparing (frame 0x03 []) :=
  State.request_refuse (status := .badIndex) h (withTag_above ht act s)

/-- A request whose block refuses it for the entry it names. -/
theorem State.request_entry_refuse {s : State} (h : s.takesPeriods = true) {bytes : List Byte}
    {act : WatchIndex → State → State × Reply} {i : WatchIndex} {status : Status}
    (ha : act i s = (s, .refuse status)) :
    ∃ t, s.request bytes (withEntry (byteOf i.val) act) = .next t ∧ t = s.withLinkOf t
      ∧ t.held = .preparing (frame status.code []) :=
  State.request_refuse h ((withEntry_byteOf i act s).trans ha)

/-- A request whose block refuses it for the tag it names. -/
theorem State.request_tag_refuse {s : State} (h : s.takesPeriods = true) {bytes : List Byte}
    {act : Tag → State → State × Reply} {tag : Tag} {status : Status} (ha : act tag s = (s, .refuse status)) :
    ∃ t, s.request bytes (withTag (byteOf tag.val) act) = .next t ∧ t = s.withLinkOf t
      ∧ t.held = .preparing (frame status.code []) :=
  State.request_refuse h ((withTag_byteOf tag act s).trans ha)

/-- A definition that is not listed or not permitted is refused (R27). -/
theorem watchWriteAct_refuse {s : State} {i : WatchIndex} {raw : RawDefinition}
    (h : ∀ d, definitionOf raw = some d → d.permitted i = false) :
    watchWriteAct raw i s = (s, .refuse .badValue) := by
  rw [watchWriteAct]
  split
  · rfl
  · next d hd => rw [h d hd]; rfl

/-- A listed parameter on an undefined entry is refused (R30). -/
theorem watchStateAct_undefined {s : State} {i : WatchIndex} {parameter : Byte} {e : WatchEntry}
    (hu : s.entries[i].undefined = true) (hc : watchStateChange parameter s.entries[i] = some e) :
    watchStateAct parameter i s = (s, .refuse .badState) := by
  simp only [watchStateAct, hc, hu, if_true]

/-- Steps of 0 are refused (R62). -/
theorem tagStepAct_zero (s : State) (tag : Tag) : tagStepAct 0 tag s = (s, .refuse .badValue) :=
  if_pos rfl

/-- An after-state that is none of the two is refused (R64). -/
theorem tagWithdrawAct_refuse {s : State} {tag : Tag} {code : Byte} (h : 2 ≤ code.toNat) :
    tagWithdrawAct code tag s = (s, .refuse .badValue) := by
  have unlisted : afterOf code = none := by
    unfold afterOf
    split <;> [omega; omega; rfl]
  rw [tagWithdrawAct, unlisted]

/-- A policy that is none of the two is refused (R71). -/
theorem tagLimitAct_refuse {s : State} {tag : Tag} {code : Byte} (h : 2 ≤ code.toNat) (limit : BitVec 16) :
    tagLimitAct limit code tag s = (s, .refuse .badValue) := by
  have unlisted : policyOf code = none := by
    unfold policyOf
    split <;> [omega; omega; rfl]
  rw [tagLimitAct, unlisted]

section HeldHead

variable {s : State} {tag : Tag} {h : TransitRecord} {beat : Byte} {w : WriteBeat}

theorem heldPatchAct_no_head (hn : s.heldHead tag = none) :
    heldPatchAct beat w tag s = (s, .refuse .badState) := by
  simp only [heldPatchAct, hn]

theorem heldAnswerAct_no_head (hn : s.heldHead tag = none) (values : List Beat) :
    heldAnswerAct values tag s = (s, .refuse .badState) := by
  simp only [heldAnswerAct, hn]

/-- A READ head is refused (R67). -/
theorem heldPatchAct_read (hh : s.heldHead tag = some h) (hr : h.access = .read) :
    heldPatchAct beat w tag s = (s, .refuse .badState) := by
  simp only [heldPatchAct, hh, if_pos hr]

/-- A beat that the head does not have is refused (R67). -/
theorem heldPatchAct_beat_above (hh : s.heldHead tag = some h) (hw : h.access = .write)
    (hb : h.beats.toNat ≤ beat.toNat) : heldPatchAct beat w tag s = (s, .refuse .badIndex) := by
  have write : h.access ≠ .read := by rw [hw]; nofun
  simp only [heldPatchAct, hh, if_neg write, if_pos hb]

/-- A patch with no byte enabled is refused (R67). -/
theorem heldPatchAct_no_enables (hh : s.heldHead tag = some h) (hw : h.access = .write)
    (hb : beat.toNat < h.beats.toNat) (he : w.enables = 0) :
    heldPatchAct beat w tag s = (s, .refuse .badValue) := by
  have write : h.access ≠ .read := by rw [hw]; nofun
  simp only [heldPatchAct, hh, if_neg write, if_neg hb.not_ge, if_pos he]

end HeldHead

/-- Settles O43, by the check of each block that fails first. -/
theorem tableAndGateRefusals : Obligations.TableAndGateRefusals := by
  intro s hp
  refine ⟨fun index parameter raw hi => ?_, fun i raw hd => State.request_entry_refuse hp (watchWriteAct_refuse hd),
    fun i hu => ?_, fun tag b c n v vs ht _ => ?_, fun tag code n => ⟨?_, fun hc => ⟨?_, ?_⟩⟩,
    fun tag beat enables v vs _ hn => ?_, fun tag beat enables v pre post h hc hl hpre hphase => ?_⟩
  · have refused := fun bytes act => State.request_index_above hp hi bytes act
    exact ⟨refused _ _, refused _ _, refused _ _, refused _ _, refused _ _, refused _ _, refused _ _⟩
  · have refused := fun {parameter e} (hc : watchStateChange parameter s.entries[i] = some e) bytes =>
      State.request_entry_refuse hp (bytes := bytes) (watchStateAct_undefined hu hc)
    exact ⟨refused rfl _, refused rfl _, refused rfl _, refused rfl _⟩
  · have refused := fun bytes act => State.request_tag_above hp ht bytes act
    exact ⟨refused _ _, refused _ _, refused _ _, refused _ _, refused _ _, refused _ _, refused _ _, refused _ _,
      refused _ _⟩
  · exact State.request_tag_refuse hp (tagStepAct_zero s tag)
  · exact State.request_tag_refuse hp (tagWithdrawAct_refuse hc)
  · exact State.request_tag_refuse hp (tagLimitAct_refuse hc n)
  · have none_held := State.heldHead_none hn
    exact ⟨State.request_tag_refuse hp (heldPatchAct_no_head none_held),
      State.request_tag_refuse hp (heldAnswerAct_no_head none_held vs)⟩
  · have held := State.heldHead_some hc hl hpre (TransitRecord.isGated_iff.2 hphase)
    exact ⟨fun hr => State.request_tag_refuse hp (heldPatchAct_read held hr),
      fun hw hb => State.request_tag_refuse hp (heldPatchAct_beat_above held hw hb),
      fun hw hb => State.request_tag_refuse hp (heldPatchAct_no_enables held hw hb rfl)⟩

/-! ## Requests that read -/

/-- A request that reads returns its record and leaves everything but the link as it was. -/
theorem State.request_reads {s : State} (h : s.takesPeriods = true) {code : Byte} {payload data : List Byte}
    {act : State → State × Reply} (ha : act s = (s, .ok data)) :
    ∃ t, s.request (frame code payload) act = .next t ∧ t = s.withLinkOf t ∧ t.Responds code payload 0x00 data := by
  obtain ⟨t, hx, hr, hf⟩ := State.request_ok h (code := code) (payload := payload) ha
  exact ⟨t, hx, hf, hr⟩

/-- Settles O45, request by request. -/
theorem readingRequests : Obligations.ReadingRequests := by
  intro s hp
  exact ⟨State.request_reads (act := fun s => (s, .ok Config.identPayload)) hp rfl,
    State.request_reads (act := eventStatusAct) hp rfl,
    fun i => State.request_reads hp (withEntry_byteOf i watchReadAct s),
    fun tag => ⟨State.request_reads hp (withTag_byteOf tag tagReadAct s),
      State.request_reads hp (withTag_byteOf tag heldListAct s)⟩⟩

end Sys2Proof.Machine
end

section
/-! SUPPORT. The gate laws (R53, R70) tag by tag: they speak of a tag's gate, of whether a record is GATED behind it,
and of the stall of its head. -/

namespace Sys2Proof.Machine

/-! ## Heads -/

/-- The lists agree on whether a record is GATED, and a stalled head stays stalled. -/
def HeadKept (l m : List TransitRecord) : Prop :=
  hasGated m = hasGated l ∧ ((headOf l).all (·.stalled) = true → (headOf m).all (·.stalled) = true)

theorem HeadKept.refl (l : List TransitRecord) : HeadKept l l := ⟨rfl, fun h => h⟩

/-- The record is GATED as it was, and loses no stall. -/
def TransitRecord.KeepsGated (r r' : TransitRecord) : Prop :=
  r'.isGated = r.isGated ∧ (r.stalled = true → r'.stalled = true)

theorem TransitRecord.KeepsGated.refl (r : TransitRecord) : r.KeepsGated r := ⟨rfl, fun h => h⟩

theorem TransitRecord.keepsGated_of_past {r r' : TransitRecord} (h : r.isGated = false) (h' : r'.isGated = false)
    (hs : r'.stalled = r.stalled) : r.KeepsGated r' :=
  ⟨h'.trans h.symm, fun h => hs.trans h⟩

/-- Records that change in their places and keep the law's marks. -/
theorem HeadKept.of_forall₂ {l m : List TransitRecord} (h : List.Forall₂ TransitRecord.KeepsGated l m) :
    HeadKept l m := by
  induction h with
  | nil => exact .refl []
  | @cons r r' _ _ hr _ ih =>
    obtain ⟨gated, stalled⟩ := hr
    obtain ⟨any, head⟩ := ih
    refine ⟨by rw [hasGated_cons, hasGated_cons, gated, any], ?_⟩
    cases hg : r.isGated with
    | true => simpa [headOf, List.find?_cons, gated, hg] using stalled
    | false => simpa [headOf, List.find?_cons, gated, hg] using head

/-- A record that is not GATED leaves the front of its list. -/
theorem HeadKept.tail {r : TransitRecord} {l : List TransitRecord} (h : r.isGated = false) : HeadKept (r :: l) l := by
  simp only [HeadKept, headOf, hasGated_cons, List.find?_cons, h, Bool.false_or, true_and, imp_self]

/-- A record that is not GATED joins the young end of its list. -/
theorem HeadKept.snoc {r : TransitRecord} (l : List TransitRecord) (h : r.isGated = false) :
    HeadKept l (l ++ [r]) := by
  simp [HeadKept, headOf, hasGated_cons, List.find?_append, h, -TransitRecord.isGated_eq_false]

/-- An unchanged gate keeps its laws where its head is kept. -/
theorem HeadKept.gateLaws {g : Gate} {l m : List TransitRecord} (h : HeadKept l m)
    (law : GatePassageLaw g l ∧ GateTimerLaw g l) : GatePassageLaw g m ∧ GateTimerLaw g m := by
  obtain ⟨gated, head⟩ := h
  obtain ⟨passage, timer, steps⟩ := law
  exact ⟨passage.imp_right head, by rw [gated]; exact timer, steps⟩

theorem State.GateLaw.of_heads {s t : State} (law : s.GateLaw) (hg : t.gates = s.gates)
    (h : ∀ u : Tag, HeadKept s.records[u] t.records[u]) : t.GateLaw := fun u => by
  rw [hg]
  exact (h u).gateLaws (law u)

theorem State.GateLaw.setRecords {s : State} (law : s.GateLaw) {tag : Tag} {l : List TransitRecord}
    (h : HeadKept s.records[tag] l) : (s.setRecords tag l).GateLaw := by
  refine law.of_heads rfl fun u => ?_
  rw [State.setRecords_get]
  split
  · next hu => subst hu; exact h
  · exact .refl _

/-! ## The laws but for one tag -/

/-- The laws hold at every gate but that of `tag`, which has steps left while it is STEPPING. -/
structure State.GateLawBut (s : State) (tag : Tag) : Prop where
  others : ∀ u : Tag, u ≠ tag → GatePassageLaw s.gates[u] s.records[u] ∧ GateTimerLaw s.gates[u] s.records[u]
  steps : s.gates[tag].state ≠ .stepping 0

theorem State.GateLaw.but {s : State} (law : s.GateLaw) (tag : Tag) : s.GateLawBut tag :=
  ⟨fun u _ => law u, (law tag).2.2⟩

theorem State.GateLawBut.of_others {s t : State} {tag : Tag} (law : s.GateLawBut tag) (hg : t.gates = s.gates)
    (hr : ∀ u : Tag, u ≠ tag → t.records[u] = s.records[u]) : t.GateLawBut tag where
  others u hu := by rw [hg, hr u hu]; exact law.others u hu
  steps := by rw [hg]; exact law.steps

theorem State.GateLawBut.setRecords {s : State} {tag : Tag} (law : s.GateLawBut tag) (l : List TransitRecord) :
    (s.setRecords tag l).GateLawBut tag :=
  law.of_others rfl fun u hu => by rw [State.setRecords_get, if_neg hu.symm]

theorem State.GateLawBut.setGate {s : State} {tag : Tag} (law : s.GateLawBut tag) {g : Gate}
    (hg : g.state ≠ .stepping 0) : (s.setGate tag g).GateLawBut tag where
  others u hu := by rw [State.setGate_get, if_neg hu.symm]; exact law.others u hu
  steps := by rw [State.setGate_get, if_pos rfl]; exact hg

/-- The laws hold at every gate where they hold at that of `tag`. -/
theorem State.GateLawBut.of_changed {s t : State} {tag : Tag} (law : s.GateLawBut tag)
    (ho : ∀ u : Tag, u ≠ tag → t.records[u] = s.records[u] ∧ t.gates[u] = s.gates[u])
    (h : GatePassageLaw t.gates[tag] t.records[tag] ∧ GateTimerLaw t.gates[tag] t.records[tag]) : t.GateLaw := by
  intro u
  by_cases hu : u = tag
  · subst hu; exact h
  · rw [(ho u hu).1, (ho u hu).2]; exact law.others u hu

/-- A gate whose timer has followed it meets the law of R70, and that of R53 as before. -/
theorem Gate.settleTimer_laws {g : Gate} {l : List TransitRecord} (hp : GatePassageLaw g l)
    (hs : g.state ≠ .stepping 0) :
    GatePassageLaw (g.settleTimer (hasGated l)) l ∧ GateTimerLaw (g.settleTimer (hasGated l)) l := by
  rw [GatePassageLaw, GateTimerLaw, Gate.settleTimer_isSome, Gate.settleTimer_state, Gate.settleTimer_limit]
  exact ⟨hp, rfl, hs⟩

/-- A consideration brings a tag's gate under the laws (R53, R70). -/
theorem State.GateLawBut.consider {s : State} {tag : Tag} (law : s.GateLawBut tag) : (s.consider tag).GateLaw := by
  refine law.of_changed (fun u hu => s.consider_other hu.symm) ?_
  rw [State.consider_records_get, State.consider_gates_get, if_pos rfl, if_pos rfl]
  exact Gate.settleTimer_laws (passRun_law _ _) (passRun_steps _ _ law.steps)

/-- The settling of its timer brings a gate that meets the law of R53 under both laws (R70). -/
theorem State.GateLawBut.settleTimer {s : State} {tag : Tag} (law : s.GateLawBut tag)
    (hp : GatePassageLaw s.gates[tag] s.records[tag]) : (s.settleTimer tag).GateLaw := by
  refine law.of_changed (fun u hu => ⟨rfl, ?_⟩) ?_
  · rw [State.settleTimer_gates_get, if_neg hu.symm]
  · rw [State.settleTimer_gates_get, if_pos rfl]
    exact Gate.settleTimer_laws hp law.steps

end Sys2Proof.Machine
end

section
/-! SUPPORT. The gate laws (R53, R70) through every operation, every command, every pin change and every step. -/

namespace Sys2Proof.Machine

/-! ## Shared operations -/

theorem State.GateLaw.offerNext {s : State} (law : s.GateLaw) : s.offerNext.GateLaw := by
  rw [s.offerNext_frame]; exact law

/-- A placed event may stall a record, and sets no record free (R105). -/
theorem State.GateLaw.place {s : State} (law : s.GateLaw) (e : Event) (l : Option RecordLink) :
    (s.place e l).GateLaw := by
  refine law.of_heads (s.place_gates e l) fun u => ?_
  rcases s.place_records_get e l u with h | ⟨k, -, -, h⟩
  · rw [h]; exact .refl _
  · rw [h]
    refine .of_forall₂ (forall₂_map fun r _ => ?_)
    split
    · exact ⟨rfl, fun _ => rfl⟩
    · exact .refl r

theorem State.GateLaw.report {s : State} (law : s.GateLaw) (entries : Vector WatchEntry 16)
    (fired : List WatchIndex) (e : Event) (link : RecordLink) : (s.report entries fired e link).GateLaw := by
  rw [State.report]
  split
  · exact law.place _ _
  · exact law

/-- A record that is set free is considered at its gate (R116). -/
theorem State.GateLaw.unstall {s : State} (law : s.GateLaw) (link : RecordLink) : (s.unstall link).GateLaw :=
  ((law.but link.tag).setRecords _).consider

theorem State.GateLaw.refill {s : State} (law : s.GateLaw) : s.refill.GateLaw :=
  State.refill_induction (P := State.GateLaw) (fun _ _ e law _ _ => State.GateLaw.unstall (by exact law) _) law

theorem State.GateLaw.finishProbe {s : State} (law : s.GateLaw) (code : ProbeCode) (values : List Beat) :
    (s.finishProbe code values).GateLaw := by
  rw [s.finishProbe_frame]; exact law

/-- Gates without records meet the law of R53, and stopped timers that of R70. -/
theorem State.gateLaw_of_empty {s : State} (hr : ∀ t : Tag, s.records[t] = [])
    (hg : ∀ t : Tag, s.gates[t].timer = none ∧ s.gates[t].state ≠ .stepping 0) : s.GateLaw := fun t => by
  rw [GatePassageLaw, GateTimerLaw, hr t, (hg t).1]
  exact ⟨.inr rfl, by simp, (hg t).2⟩

/-! ## The initiator port -/

/-- The evaluation of a request changes no gate, and no records but its tag's. -/
theorem State.GateLawBut.judgeRequest {s : State} {tag : Tag} (law : s.GateLawBut tag) (r : TransitRecord) :
    (s.judgeRequest tag r).GateLawBut tag := by
  have added : ∀ (v : Vector WatchEntry 16) (x : TransitRecord),
      (({ s with entries := v } : State).addRecord tag x).GateLawBut tag := fun v x =>
    law.of_others rfl fun u hu => by
      change (s.setRecords tag (s.records[tag] ++ [x])).records[u] = s.records[u]
      rw [State.setRecords_get, if_neg hu.symm]
  rw [State.judgeRequest_eq, State.report]
  split
  · refine (added _ _).of_others (State.place_gates _ _ _) fun u hu => ?_
    rcases State.place_records_get _ _ _ u with h | ⟨k, hk, rfl, -⟩
    · exact h
    · split at hk <;> cases hk
      exact absurd rfl hu
  · exact added _ _

theorem State.GateLaw.accept {s : State} (law : s.GateLaw) (tag : Tag) (privilege : Privilege) (address : Addr)
    (body : RequestBody) : (s.accept tag privilege address body).GateLaw := by
  unfold State.accept
  split
  · exact law
  · dsimp only
    split
    · exact ((law.but tag).judgeRequest _).consider.offerNext
    · exact (State.GateLaw.place (s := s.addRecord tag _) (law.setRecords (HeadKept.snoc _ rfl)) _ _).offerNext

/-- The response that leaves the part was at the front and ANSWERED (R19). -/
theorem State.GateLaw.deliverResponse {s : State} (law : s.GateLaw) : s.deliverResponse.GateLaw := by
  unfold State.deliverResponse
  split
  · exact law
  · next tag _ =>
    split
    · exact law
    · next response hd =>
      obtain ⟨r, rest, hl, ha, -⟩ := State.deliverable_isSome.1 (Option.isSome_of_mem hd)
      have past : r.isGated = false := by
        obtain ⟨a, ha⟩ := TransitRecord.isAnswered_iff.1 ha
        exact TransitRecord.isGated_eq_false.2 (by rw [ha]; nofun)
      have left : (s.setRecords tag (s.records[tag].drop 1)).GateLaw := law.setRecords (by rw [hl]; exact .tail past)
      exact State.GateLaw.offerNext (by exact left)

/-! ## The memory port -/

theorem State.GateLaw.grantNext {s : State} (law : s.GateLaw) : s.grantNext.GateLaw := by
  unfold State.grantNext
  split
  · next slot c _ _ =>
    dsimp only
    split
    · next tag _ =>
      rcases State.grantRecord_cases { s with arbiter := c } slot tag with h | ⟨_, -, _, h⟩ <;> rw [h]
      · exact law
      · refine law.setRecords (tag := tag) (.of_forall₂ (forall₂_onFirst .refl fun r hr => ?_))
        have ready := TransitRecord.isReady_iff.1 (List.find?_some (p := fun r : TransitRecord => r.isReady) hr)
        exact TransitRecord.keepsGated_of_past (TransitRecord.isGated_eq_false.2 (by rw [ready]; nofun)) rfl rfl
    · rcases State.grantProbe_cases { s with arbiter := c } slot with h | ⟨_, -, _, h⟩ <;> rw [h] <;> exact law
  · exact law

/-- The answered record was AT-MEMORY (R87, R92). -/
theorem State.GateLaw.answerRecord {s : State} (law : s.GateLaw) (tag : Tag) (slot : SlotIndex) (code : AnswerCode)
    (values : List Beat) : (s.answerRecord tag slot code values).GateLaw := by
  refine law.setRecords (.of_forall₂ (forall₂_map fun r _ => ?_))
  split
  · next hr =>
    rw [TransitRecord.inSlot_iff] at hr
    exact TransitRecord.keepsGated_of_past (TransitRecord.isGated_eq_false.2 (by rw [hr]; nofun)) rfl rfl
  · exact .refl r

theorem GateState.opened_ne_stepping (n : BitVec 16) : GateState.opened ≠ .stepping n := nofun

theorem GateState.closed_ne_stepping (cause : CloseCause) (n : BitVec 16) : GateState.closed cause ≠ .stepping n :=
  nofun

/-- A gate that is closed meets the law of R53, and its timer follows (R57, R70). -/
theorem State.GateLaw.close {s : State} (law : s.GateLaw) (tag : Tag) (cause : CloseCause) :
    ((s.setGate tag { s.gates[tag] with state := .closed cause }).settleTimer tag).GateLaw :=
  ((law.but tag).setGate (GateState.closed_ne_stepping cause 0)).settleTimer
    (.inl (by rw [State.setGate_get, if_pos rfl]; rfl))

theorem State.GateLaw.closeAsApplied {s : State} (law : s.GateLaw) (tag : Tag) (a : Action) :
    (s.closeAsApplied tag a).GateLaw := by
  unfold State.closeAsApplied State.closeForRead
  split
  · split
    · exact law
    · exact law.close tag _
  · exact law

theorem State.GateLaw.takeAnswer {s : State} (law : s.GateLaw) (slot : SlotIndex) (code : MemoryCode)
    (data : List Beat) : (s.takeAnswer slot code data).GateLaw := by
  unfold State.takeAnswer
  split
  · exact law
  · exact law
  · exact State.GateLaw.finishProbe (s := s.setSlot slot .free) law _ _
  · next tag _ _ _ _ _ =>
    simp only [State.answerForRecord]
    split
    · exact law
    · have answered := State.GateLaw.answerRecord (s := s.setSlot slot .free) law tag slot
      split
      · rw [State.judgeResponse_eq]
        exact ((State.GateLaw.closeAsApplied (by exact answered _ _) _ _).report _ _ _ _).offerNext
      · exact (answered _ _).offerNext

theorem State.GateLaw.expireResponse {s : State} (law : s.GateLaw) (slot : SlotIndex) :
    (s.expireResponse slot).GateLaw := by
  unfold State.expireResponse
  split
  · exact State.GateLaw.finishProbe (s := s.setSlot slot .lingering) law _ _
  · simp only [State.expireRecord]
    split
    · exact law
    · exact ((State.GateLaw.answerRecord (s := s.setSlot slot .lingering) law _ _ _ _).place _ _).offerNext
  · exact law

/-! ## The gate unit -/

/-- A gate that takes a new state has its head considered (R52). -/
theorem State.GateLawBut.openGate {s : State} {tag : Tag} (law : s.GateLawBut tag) {g : GateState}
    (hg : g ≠ .stepping 0) : (s.openGate tag g).GateLaw :=
  (law.setGate (g := s.gates[tag].leaveClosed g) hg).consider

theorem State.GateLaw.release {s : State} (law : s.GateLaw) (tag : Tag) {g : GateState} (hg : g ≠ .stepping 0) :
    (s.release tag g).GateLaw := by
  unfold State.release
  split
  · exact State.GateLawBut.openGate ((law.but tag).setRecords _) hg
  · exact (law.but tag).openGate hg

/-- A withdrawal leaves no record GATED behind the gate (R64). -/
theorem State.GateLaw.withdraw {s : State} (law : s.GateLaw) (tag : Tag) {g : GateState} (hg : g ≠ .stepping 0) :
    (s.withdraw tag g).GateLaw := by
  refine State.GateLawBut.settleTimer (((law.but tag).setRecords _).setGate hg) (.inr ?_)
  rw [State.setGate_records, State.setRecords_get, if_pos rfl, headOf_eq_none.2 (withdrawGated_hasGated _)]
  rfl

theorem State.GateLaw.expireHold {s : State} (law : s.GateLaw) (tag : Tag) : (s.expireHold tag).GateLaw := by
  unfold State.expireHold
  split
  · split
    · exact (State.GateLawBut.openGate ((law.but tag).setRecords _) (GateState.opened_ne_stepping 0)).place _ _
    · exact ((law.withdraw tag (GateState.opened_ne_stepping 0)).place _ _).offerNext
  · exact law

theorem State.GateLaw.tagLimitAct {s : State} (law : s.GateLaw) (limit : BitVec 16) (policy : Byte) (tag : Tag) :
    (tagLimitAct limit policy tag s).1.GateLaw := by
  unfold Machine.tagLimitAct
  split
  · exact law
  · refine ((law.but tag).setGate (by exact (law tag).2.2)).settleTimer ?_
    rw [State.setGate_get, if_pos rfl]
    exact (law tag).1

theorem afterOf_ne_stepping {code : Byte} {g : GateState} (h : afterOf code = some g) : g ≠ .stepping 0 := by
  unfold afterOf at h
  split at h <;> cases h <;> nofun

theorem State.GateLaw.tagWithdrawAct {s : State} (law : s.GateLaw) (after : Byte) (tag : Tag) :
    (tagWithdrawAct after tag s).1.GateLaw := by
  unfold Machine.tagWithdrawAct
  split
  · exact law
  · next h => exact (law.withdraw tag (afterOf_ne_stepping h)).offerNext

theorem State.GateLaw.tagResumeAct {s : State} (law : s.GateLaw) (tag : Tag) : (tagResumeAct tag s).1.GateLaw := by
  unfold Machine.tagResumeAct
  dsimp only
  split
  · exact law
  · exact law.release tag (GateState.opened_ne_stepping 0)

theorem State.GateLaw.tagStepAct {s : State} (law : s.GateLaw) (n : BitVec 16) (tag : Tag) :
    (tagStepAct n tag s).1.GateLaw := by
  unfold Machine.tagStepAct
  split
  · exact law
  · next hn => exact law.release tag fun h => hn (GateState.stepping.inj h)

/-- A patch changes neither phase nor stall (R67). -/
theorem State.GateLaw.heldPatchAct {s : State} (law : s.GateLaw) (beat : Byte) (w : WriteBeat) (tag : Tag) :
    (heldPatchAct beat w tag s).1.GateLaw := by
  have patched : (s.setRecords tag (onHead (·.patched beat.toNat w) s.records[tag])).GateLaw :=
    law.setRecords (.of_forall₂ (forall₂_onFirst .refl fun _ _ => ⟨rfl, fun h => h⟩))
  unfold Machine.heldPatchAct
  split
  · exact law
  · split
    · exact law
    · split
      · exact law
      · split
        · exact law
        · exact patched

/-- The gate of an answered head stays CLOSED (R69). -/
theorem State.GateLaw.heldAnswerAct {s : State} (law : s.GateLaw) (values : List Beat) (tag : Tag) :
    (heldAnswerAct values tag s).1.GateLaw := by
  unfold Machine.heldAnswerAct
  split
  · exact law
  · next r hr =>
    have closed : ∃ cause, s.gates[tag].state = .closed cause := by
      rw [← GateState.isClosed_iff, ← Bool.not_eq_false]
      intro h
      rw [State.heldHead_none (.inl h)] at hr
      cases hr
    obtain ⟨cause, hc⟩ := closed
    rw [hc, GateState.afterHeldAnswer_closed]
    refine State.GateLaw.offerNext (State.GateLawBut.settleTimer
      (((law.but tag).setRecords _).setGate (GateState.closed_ne_stepping _ 0)) (.inl ?_))
    rw [State.setGate_get, if_pos rfl]
    rfl

/-! ## The event unit and the wait table -/

theorem State.GateLaw.eventTakeAct {s : State} (law : s.GateLaw) : (eventTakeAct s).1.GateLaw := by
  unfold Machine.eventTakeAct
  split
  · exact law
  · exact (State.GateLaw.refill (by exact law)).offerNext

theorem State.GateLaw.eventDiscardAct {s : State} (law : s.GateLaw) : (eventDiscardAct s).1.GateLaw :=
  (State.GateLaw.refill (s := { s with store := [] }) law).offerNext

theorem State.GateLaw.waitPostAct {s : State} (law : s.GateLaw) (handle kinds tags : Byte) (watches : BitVec 16) :
    (waitPostAct handle kinds tags watches s).1.GateLaw := by
  unfold Machine.waitPostAct
  split
  · exact law
  · split
    · exact law
    · split
      · exact law
      · unfold State.postWait
        split
        · exact (State.GateLaw.refill (by exact law)).offerNext
        · split
          · exact (State.GateLaw.unstall (by exact law) _).offerNext
          · exact law

/-! ## The resets and time -/

theorem Gate.systemReset_timer (g : Gate) (holdboot : Bool) :
    (g.systemReset holdboot).timer = none ∧ (g.systemReset holdboot).state ≠ .stepping 0 := by
  cases holdboot <;> exact ⟨rfl, nofun⟩

theorem State.GateLaw.systemReset {s : State} (law : s.GateLaw) (holdboot : Bool) :
    (s.systemReset holdboot).GateLaw := by
  unfold State.systemReset
  split
  · exact law
  · refine (State.GateLaw.finishProbe (State.gateLaw_of_empty (fun t => ?_) fun t => ?_) _ _).place _ _
    · simp [State.discardTarget]
    · simpa [State.discardTarget] using Gate.systemReset_timer s.gates[t] holdboot

theorem State.gateLaw_powerOn (holdboot sysrstLow lcsLow : Bool) (waiting : List Instr) (pins : List PinChange) :
    (State.powerOn holdboot sysrstLow lcsLow waiting pins).GateLaw := by
  refine State.gateLaw_of_empty (fun t => by simp [State.powerOn]) fun t => ?_
  cases holdboot <;> simp [State.powerOn, Gate.powerOn, GateState.boot]

/-- CLEAR opens every gate with a limit of 0 and considers its head (R80, R171). -/
theorem State.gateLaw_cleared (s : State) : s.cleared.GateLaw := fun t => by
  rw [s.cleared_records, s.cleared_gates]
  exact ⟨passRun_law _ _, by simp, passRun_steps _ _ nofun⟩

/-- A microsecond stops no timer and starts none (R70). -/
theorem State.GateLaw.tick {s : State} (law : s.GateLaw) : s.tick.GateLaw := fun t => by
  have gate : s.tick.gates[t] = s.gates[t].tick := by simp [State.tick]
  obtain ⟨passage, timer, steps⟩ := law t
  rw [gate]
  exact ⟨passage, Option.isSome_map.trans timer, steps⟩

theorem State.GateLaw.passTime {s : State} (law : s.GateLaw) : s.passTime.GateLaw := by
  unfold State.passTime
  split
  · split
    · exact law.expireHold _
    · split
      · exact law.expireResponse _
      · exact law.tick
  · exact law

end Sys2Proof.Machine
end

section
/-! SUPPORT. Every command, every pin change and every step keeps the gate laws (R53, R70). -/

namespace Sys2Proof.Machine

/-! ## Requests that leave gates and records alone -/

section Apart

variable {s : State} (law : s.GateLaw)

include law

theorem State.GateLaw.watchWriteAct (raw : RawDefinition) (i : WatchIndex) : (watchWriteAct raw i s).1.GateLaw := by
  unfold Machine.watchWriteAct
  split
  · exact law
  · split <;> exact law

theorem State.GateLaw.watchStateAct (parameter : Byte) (i : WatchIndex) :
    (watchStateAct parameter i s).1.GateLaw := by
  unfold Machine.watchStateAct
  split
  · exact law
  · split <;> exact law

theorem State.GateLaw.waitCancelAct (handle : Byte) : (waitCancelAct handle s).1.GateLaw := by
  unfold Machine.waitCancelAct
  split
  · exact law
  · split <;> exact law

theorem State.GateLaw.waitTakeAct : (waitTakeAct s).1.GateLaw := by
  unfold Machine.waitTakeAct
  split <;> exact law

theorem State.GateLaw.attnSetAct (conditions : Byte) : (attnSetAct conditions s).1.GateLaw := by
  unfold Machine.attnSetAct
  split <;> exact law

theorem State.GateLaw.probeStartAct (q : ProbeRequest) : (probeStartAct q s).1.GateLaw := by
  unfold Machine.probeStartAct
  split
  · exact law
  · split
    · exact law
    · split <;> exact law

theorem State.GateLaw.probeResultAct : (probeResultAct s).1.GateLaw := by
  unfold Machine.probeResultAct
  split <;> exact law

theorem State.GateLaw.probeCancelAct : (probeCancelAct s).1.GateLaw := by
  unfold Machine.probeCancelAct
  split <;> exact law

theorem State.GateLaw.withTag {act : Tag → State → State × Reply} (h : ∀ tag, (act tag s).1.GateLaw) (tag : Byte) :
    (withTag tag act s).1.GateLaw := by
  unfold Machine.withTag
  split
  · exact h _
  · exact law

theorem State.GateLaw.withEntry {act : WatchIndex → State → State × Reply} (h : ∀ i, (act i s).1.GateLaw)
    (index : Byte) : (withEntry index act s).1.GateLaw := by
  unfold Machine.withEntry
  split
  · exact h _
  · exact law

end Apart

/-! ## Commands -/

/-- Where the command ends in a next state, that state meets the gate laws. -/
def GateLawAfter (r : Result) : Prop := ∀ t, r = .next t → t.GateLaw

theorem gateLawAfter_next {t : State} (h : t.GateLaw) : GateLawAfter (.next t) := fun _ ht =>
  Host.Outcome.next.inj ht ▸ h

theorem State.GateLaw.whenTakingEvents {s : State} (law : s.GateLaw) {f : State → State} (h : (f s).GateLaw) :
    GateLawAfter (s.whenTakingEvents f) := gateLawAfter_next (by split <;> assumption)

theorem State.GateLaw.whenTakingPeriods {s : State} (law : s.GateLaw) {f : State → State} (h : (f s).GateLaw) :
    GateLawAfter (s.whenTakingPeriods f) := gateLawAfter_next (by split <;> assumption)

theorem State.GateLaw.request {s : State} (law : s.GateLaw) {act : State → State × Reply}
    (h : (act s).1.GateLaw) (bytes : List Byte) : GateLawAfter (s.request bytes act) :=
  law.whenTakingPeriods (f := fun s => (act s).1.endPeriod bytes (.preparing (act s).2.frame)) h

theorem State.GateLaw.readPeriod {s : State} (law : s.GateLaw) (bytes : Nat) (readyAfter : Option Nat) :
    (s.readPeriod bytes readyAfter).GateLaw := by
  unfold State.readPeriod
  split <;> exact law

theorem State.GateLaw.exec_of_command {i : Instr} (h : ∀ b, i ≠ .badFrame b ∧ i ≠ .badRequest b) {s : State}
    (law : s.GateLaw) : GateLawAfter (exec i s) := by
  cases i with
  | acceptance tag p a body => exact law.whenTakingEvents (law.accept tag p a body)
  | delivery => exact law.whenTakingEvents law.deliverResponse
  | grant => exact law.whenTakingEvents law.grantNext
  | answer k code data => exact law.whenTakingEvents (law.takeAnswer k code data)
  | responseTimerExpiry k => exact law.whenTakingEvents (law.expireResponse k)
  | holdTimerExpiry tag => exact law.whenTakingEvents (law.expireHold tag)
  | sysrstAssertion hb => exact law.whenTakingEvents (law.systemReset hb)
  | sysrstRelease => exact law.whenTakingEvents (f := fun s => { s with sysrst := false }) law
  | powerOn hb low => exact gateLawAfter_next (by split; exacts [State.gateLaw_powerOn _ _ _ _ _, law])
  | powerOnBegin => exact gateLawAfter_next (State.gateLaw_powerOn false false s.lcsLow s.pending s.pins)
  | readPeriod n r => exact law.whenTakingPeriods (law.readPeriod n r)
  | responseReady => exact law.whenTakingEvents (f := fun s => { s with held := s.held.built }) law
  | badFrame b => exact absurd rfl (h b).1
  | badRequest b => exact absurd rfl (h b).2
  | ident => exact law.request (act := fun s => (s, .ok Config.identPayload)) law _
  | clear => exact law.request (act := clearAct) s.gateLaw_cleared.offerNext _
  | setResponseLimit limit => exact law.request (act := setResponseLimitAct limit) law _
  | watchWrite index d => exact law.request (law.withEntry (law.watchWriteAct d) index) _
  | watchRead index => exact law.request (law.withEntry (act := watchReadAct) (fun _ => law) index) _
  | disable index => exact law.request (law.withEntry (law.watchStateAct 0x00) index) _
  | enableLive index => exact law.request (law.withEntry (law.watchStateAct 0x01) index) _
  | enableDormant index => exact law.request (law.withEntry (law.watchStateAct 0x02) index) _
  | rearm index => exact law.request (law.withEntry (law.watchStateAct 0x03) index) _
  | watchState index parameter => exact law.request (law.withEntry (law.watchStateAct parameter) index) _
  | tagRead tag => exact law.request (law.withTag (act := tagReadAct) (fun _ => law) tag) _
  | tagFreeze tag => exact law.request (law.withTag (act := tagFreezeAct) (law.close · .freeze) tag) _
  | tagResume tag => exact law.request (law.withTag law.tagResumeAct tag) _
  | tagStep tag n => exact law.request (law.withTag (law.tagStepAct n) tag) _
  | tagWithdraw tag after => exact law.request (law.withTag (law.tagWithdrawAct after) tag) _
  | tagLimit tag limit policy => exact law.request (law.withTag (law.tagLimitAct limit policy) tag) _
  | heldList tag => exact law.request (law.withTag (act := heldListAct) (fun _ => law) tag) _
  | heldPatch tag beat data enables =>
    exact law.request (law.withTag (law.heldPatchAct beat ⟨data, enables⟩) tag) _
  | heldAnswer tag values => exact law.request (law.withTag (law.heldAnswerAct values) tag) _
  | eventTake => exact law.request law.eventTakeAct _
  | eventStatus => exact law.request (act := eventStatusAct) law _
  | eventDiscard => exact law.request law.eventDiscardAct _
  | waitPost handle kinds tags watches => exact law.request (law.waitPostAct handle kinds tags watches) _
  | waitCancel handle => exact law.request (law.waitCancelAct handle) _
  | waitTake => exact law.request law.waitTakeAct _
  | attnSet conditions => exact law.request (law.attnSetAct conditions) _
  | probeRead address beats => exact law.request (law.probeStartAct _) _
  | probeWrite address beats => exact law.request (law.probeStartAct _) _
  | probeResult => exact law.request law.probeResultAct _
  | probeCancel => exact law.request law.probeCancelAct _

theorem State.GateLaw.runPeriod {s : State} (law : s.GateLaw) (bytes : List Byte) :
    GateLawAfter (runPeriod bytes s) := by
  rcases runPeriod_cases bytes s with h | ⟨b, status, -, h⟩ | ⟨i, hi, h⟩ <;> rw [h]
  · exact gateLawAfter_next law
  · exact law.whenTakingPeriods (f := fun s => s.endPeriod b (.ready (Reply.refuse status).frame)) law
  · exact law.exec_of_command hi

theorem State.GateLaw.exec {s : State} (law : s.GateLaw) (i : Instr) : GateLawAfter (exec i s) := by
  by_cases h : ∀ b, i ≠ .badFrame b ∧ i ≠ .badRequest b
  · exact law.exec_of_command h
  · simp only [not_forall, not_and_or, not_not] at h
    obtain ⟨b, rfl | rfl⟩ := h <;> exact law.runPeriod b

/-! ## Pin changes and steps -/

/-- The end of a period runs its command, or touches the link alone (R157, R158, R163). -/
theorem State.GateLaw.periodEnds {s : State} (law : s.GateLaw) : GateLawAfter s.periodEnds := by
  unfold State.periodEnds
  split
  · exact gateLawAfter_next law
  · split
    · exact gateLawAfter_next law
    · next p _ _ => exact State.GateLaw.runPeriod (s := { s with period := none }) law p.received

theorem State.GateLaw.sameBlocks {s t : State} (law : s.GateLaw) (h : s.SameBlocks t) : t.GateLaw := by
  rw [h]; exact law

/-- A pin change touches the link alone, and may end a period whose command then runs (R157, R178). -/
theorem State.GateLaw.takePin {s : State} (law : s.GateLaw) (change : PinChange) :
    GateLawAfter (s.takePin change) := by
  cases change with
  | lcsFall =>
    refine gateLawAfter_next ?_
    split
    · exact law
    · split <;> exact law
  | lcsRise =>
    simp only [State.takePin]
    split
    · split
      · exact State.GateLaw.periodEnds (s := { s with lcsLow := false }) law
      · exact gateLawAfter_next law
    · exact gateLawAfter_next law
  | lckRise ldi =>
    refine gateLawAfter_next ?_
    split
    · exact law.sameBlocks (s.lckRise_sameBlocks ldi)
    · exact law
  | lckFall =>
    refine gateLawAfter_next ?_
    split <;> exact law
  | clkStop => exact gateLawAfter_next law
  | clkRun =>
    simp only [State.takePin]
    split
    · exact gateLawAfter_next law
    · exact State.GateLaw.periodEnds (s := { s with clkRunning := true }) law

/-- Settles O54: every operation leaves the gates it touches considered or closed, and their timers settled. -/
theorem stepKeepsGateLaw : Obligations.StepKeepsGateLaw := by
  suffices ∀ s : State, s.GateLaw → GateLawAfter (step s) from fun s t h law => this s law t h
  intro s law
  unfold step
  split
  · unfold State.idle
    split
    · exact gateLawAfter_next law.passTime
    · next change rest _ => exact State.GateLaw.takePin (s := { s with pins := rest }) law change
  · next c rest _ => exact State.GateLaw.exec (s := { s with pending := rest }) law c

end Sys2Proof.Machine
end

section
/-! SUPPORT. The consideration of a head (R52, R53, R55) and the count of steps (R54), each told by the run of
passages. -/

namespace Sys2Proof.Machine

/-! ## Heads behind records that have passed -/

section Head

variable {g : GateState} {pre post : List TransitRecord} {h : TransitRecord}

/-- A stalled head waits, and so does every record behind it (R53 case 1). -/
theorem passRun_head_stalled (hpre : hasGated pre = false) (hg : h.isGated = true) (hs : h.stalled = true) :
    passRun g (pre ++ h :: post) = (g, pre ++ h :: post) := by
  rw [passRun_append g hpre, passRun_stalled g hg hs]

/-- An unspent HOLD-BEFORE of the head closes the gate (R53 case 2). -/
theorem passRun_head_holds (hpre : hasGated pre = false) (hg : h.isGated = true) (hs : h.stalled = false)
    (hc : g.isClosed = false) (hh : h.holdsBefore = true) :
    passRun g (pre ++ h :: post) = (.closed .watchBefore, pre ++ h :: post) := by
  rw [passRun_append g hpre, passRun_holds hg hs hc hh]

/-- Any other head passes, and the gate behind it meets the rest (R53 case 3). -/
theorem passRun_head_passes (hpre : hasGated pre = false) (hg : h.isGated = true) (hs : h.stalled = false)
    (hc : g.isClosed = false) (hh : h.holdsBefore = false) :
    passRun g (pre ++ h :: post) = ((passRun (g.afterPassage h) post).1,
      pre ++ { h with phase := .ready } :: (passRun (g.afterPassage h) post).2) := by
  rw [passRun_append g hpre, passRun_passes hg hs hc hh]

end Head

theorem TransitRecord.holdsBefore_iff {r : TransitRecord} :
    r.holdsBefore = true ↔ r.decision = .holdBefore ∧ r.spent = false := by
  simp [TransitRecord.holdsBefore]

theorem TransitRecord.holdsBefore_of_spent {r : TransitRecord} (h : r.decision = .holdBefore → r.spent = true) :
    r.holdsBefore = false := by
  rw [← Bool.not_eq_true, TransitRecord.holdsBefore_iff]
  exact fun ⟨hd, hs⟩ => Bool.false_ne_true (hs.symm.trans (h hd))

/-- Behind a HOLD-AFTER record the gate is closed (R55). -/
theorem GateState.afterPassage_holdAfter (g : GateState) {r : TransitRecord} (h : r.decision = .holdAfter) :
    g.afterPassage r = .closed .watchAfter := by
  simp [GateState.afterPassage, h]

/-- Behind any other record an OPEN gate stays OPEN. -/
theorem GateState.afterPassage_opened {r : TransitRecord} (h : r.decision ≠ .holdAfter) :
    GateState.opened.afterPassage r = .opened := by
  simp [GateState.afterPassage, h]

/-- Behind any other record a STEPPING gate has one step fewer, or has done its last (R54). -/
theorem GateState.afterPassage_stepping (n : BitVec 16) {r : TransitRecord} (h : r.decision ≠ .holdAfter) :
    (GateState.stepping n).afterPassage r = if n.toNat ≤ 1 then .closed .stepDone else .stepping (n - 1) := by
  simp [GateState.afterPassage, h]

/-! ## Lists without stalls and holds -/

/-- No stall and no hold keeps a GATED record of the list from passing (R53, R55). -/
def PassesFreely (l : List TransitRecord) : Prop :=
  ∀ r ∈ l, r.phase = .gated →
    r.stalled = false ∧ r.decision ≠ .holdAfter ∧ (r.decision = .holdBefore → r.spent = true)

/-- Every GATED record of the list has passed. -/
def passedAll (l : List TransitRecord) : List TransitRecord :=
  l.map fun r => if r.isGated then { r with phase := .ready } else r

theorem passedAll_cons_gated {r : TransitRecord} (h : r.isGated = true) (l : List TransitRecord) :
    passedAll (r :: l) = { r with phase := .ready } :: passedAll l := by
  rw [passedAll, List.map_cons, if_pos h]; rfl

theorem passedAll_cons_past {r : TransitRecord} (h : r.isGated = false) (l : List TransitRecord) :
    passedAll (r :: l) = r :: passedAll l := by
  rw [passedAll, List.map_cons, h]; rfl

theorem PassesFreely.tail {r : TransitRecord} {l : List TransitRecord} (h : PassesFreely (r :: l)) :
    PassesFreely l := fun x hx => h x (List.mem_cons_of_mem r hx)

/-- The head of such a list passes. -/
theorem PassesFreely.passRun_cons {r : TransitRecord} {l : List TransitRecord} (h : PassesFreely (r :: l))
    {g : GateState} (hc : g.isClosed = false) (hg : r.isGated = true) :
    r.decision ≠ .holdAfter ∧ passRun g (r :: l) = ((passRun (g.afterPassage r) l).1,
      { r with phase := .ready } :: (passRun (g.afterPassage r) l).2) := by
  obtain ⟨hs, ha, hb⟩ := h r List.mem_cons_self (TransitRecord.isGated_iff.1 hg)
  exact ⟨ha, passRun_passes hg hs hc (TransitRecord.holdsBefore_of_spent hb)⟩

/-- A record that is not GATED is stepped over. -/
theorem passRun_cons_past (g : GateState) {r : TransitRecord} (h : r.isGated = false) (l : List TransitRecord) :
    passRun g (r :: l) = ((passRun g l).1, r :: (passRun g l).2) :=
  passRun_append g (pre := [r]) (by rw [hasGated_cons, h]; rfl)

/-- An OPEN gate lets every such record pass (R53). -/
theorem PassesFreely.passRun_opened {l : List TransitRecord} (h : PassesFreely l) :
    passRun .opened l = (.opened, passedAll l) := by
  induction l with
  | nil => rfl
  | cons r l ih =>
    cases hg : r.isGated with
    | true =>
      obtain ⟨ha, run⟩ := h.passRun_cons GateState.isClosed_opened hg
      rw [run, GateState.afterPassage_opened ha, ih h.tail, passedAll_cons_gated hg]
    | false => rw [passRun_cons_past _ hg, ih h.tail, passedAll_cons_past hg]

/-- The number of records that wait behind the gate. -/
def waitingCount (l : List TransitRecord) : Nat := (l.filter (·.isGated)).length

theorem waitingCount_cons_gated {r : TransitRecord} (h : r.isGated = true) (l : List TransitRecord) :
    waitingCount (r :: l) = waitingCount l + 1 := by
  rw [waitingCount, List.filter_cons_of_pos h]; rfl

theorem waitingCount_cons_past {r : TransitRecord} (h : r.isGated = false) (l : List TransitRecord) :
    waitingCount (r :: l) = waitingCount l := by
  rw [waitingCount, List.filter_cons_of_neg (by rw [h]; nofun)]; rfl

/-- The gate that had `n` steps, behind such a list with `waiting` GATED records (R54). -/
def GateState.stepped (n : BitVec 16) (waiting : Nat) : GateState :=
  if n.toNat ≤ waiting then .closed .stepDone else .stepping (n - BitVec.ofNat 16 waiting)

/-- One step fewer, and one record fewer to pass. -/
theorem GateState.stepped_succ {n : BitVec 16} (hn : 1 < n.toNat) (waiting : Nat) :
    GateState.stepped (n - 1) waiting = GateState.stepped n (waiting + 1) := by
  have fewer : (n - 1).toNat = n.toNat - 1 := by bv_omega
  have rest : n - 1 - BitVec.ofNat 16 waiting = n - BitVec.ofNat 16 (waiting + 1) := by
    rw [BitVec.ofNat_add, BitVec.add_comm, BitVec.sub_sub]; rfl
  rw [GateState.stepped, GateState.stepped, fewer, rest]
  exact if_congr (by omega) rfl rfl

/-- A gate STEPPING with `n` lets the oldest `n` such records pass (R54). -/
theorem PassesFreely.passRun_stepping {l : List TransitRecord} (h : PassesFreely l) {n : BitVec 16} (hn : n ≠ 0) :
    ∃ front back, l = front ++ back ∧ waitingCount front = min n.toNat (waitingCount l)
      ∧ passRun (.stepping n) l = (.stepped n (waitingCount l), passedAll front ++ back) := by
  have positive : ∀ {n : BitVec 16}, n ≠ 0 → 0 < n.toNat := fun hn => by bv_omega
  induction l generalizing n with
  | nil =>
    refine ⟨[], [], rfl, (Nat.min_zero _).symm, ?_⟩
    have left : ¬ n.toNat ≤ waitingCount [] := (positive hn).not_ge
    rw [GateState.stepped, if_neg left]
    simp [passRun, waitingCount, passedAll]
  | cons r l ih =>
    cases hg : r.isGated with
    | false =>
      obtain ⟨front, back, rfl, count, run⟩ := ih h.tail hn
      refine ⟨r :: front, back, rfl, ?_, ?_⟩
      · rw [waitingCount_cons_past hg, waitingCount_cons_past hg, count]
      · rw [passRun_cons_past _ hg, run, waitingCount_cons_past hg, passedAll_cons_past hg]; rfl
    | true =>
      obtain ⟨ha, run⟩ := h.passRun_cons (GateState.isClosed_stepping n) hg
      rw [GateState.afterPassage_stepping n ha] at run
      rw [waitingCount_cons_gated hg, run]
      by_cases last : n.toNat ≤ 1
      · refine ⟨[r], l, rfl, ?_, ?_⟩
        · rw [waitingCount_cons_gated hg, waitingCount, List.filter_nil, List.length_nil]
          have := positive hn
          omega
        · rw [if_pos last, passRun_closed, GateState.stepped, if_pos (by omega), passedAll_cons_gated hg]; rfl
      · obtain ⟨front, back, rfl, count, rest⟩ := ih h.tail (n := n - 1) (by bv_omega)
        refine ⟨r :: front, back, rfl, ?_, ?_⟩
        · have fewer : (n - 1).toNat = n.toNat - 1 := by bv_omega
          rw [waitingCount_cons_gated hg, count, fewer]
          omega
        · rw [if_neg last, rest, GateState.stepped_succ (Nat.not_le.1 last), passedAll_cons_gated hg]; rfl

/-! ## Considerations -/

/-- A tag's records and gate state behind a consideration, told by the run of passages. -/
theorem State.consider_run {s : State} {tag : Tag} {g : GateState} {l : List TransitRecord}
    (run : passRun s.gates[tag].state s.records[tag] = (g, l)) :
    (s.consider tag).records[tag] = l ∧ (s.consider tag).gates[tag].state = g := by
  rw [State.consider_records_get, State.consider_gates_get, if_pos rfl, if_pos rfl, run, Gate.settleTimer_state]
  exact ⟨rfl, rfl⟩

/-- The gate context behind a consideration: limit and policy stay, and the timer follows (R53, R70). -/
theorem State.consider_gate (s : State) (tag : Tag) :
    GatePassageLaw (s.consider tag).gates[tag] (s.consider tag).records[tag]
      ∧ (s.consider tag).gates[tag].timer.isSome = ((s.consider tag).gates[tag].state.isClosed
          && hasGated (s.consider tag).records[tag] && (s.consider tag).gates[tag].limit != 0)
      ∧ (s.consider tag).gates[tag].limit = s.gates[tag].limit
      ∧ (s.consider tag).gates[tag].policy = s.gates[tag].policy := by
  rw [State.consider_records_get, State.consider_gates_get, if_pos rfl, if_pos rfl, GatePassageLaw,
    Gate.settleTimer_isSome, Gate.settleTimer_state, Gate.settleTimer_limit, Gate.settleTimer_policy]
  exact ⟨passRun_law _ _, rfl, rfl, rfl⟩

/-- Settles O19, by the run of passages in each case of R53 and R55. -/
theorem considerationOfTheHead : Obligations.ConsiderationOfTheHead := by
  intro s tag
  obtain ⟨passage, timer, limit, policy⟩ := s.consider_gate tag
  refine ⟨passage, timer, fun u hu => ?_, rfl, limit, policy, fun waits => ?_,
    fun pre post h hl hpre hphase hc => ?_, fun hopen free => ?_⟩
  · exact (s.consider_other hu.symm).symm
  · refine State.consider_run ?_
    rcases waits with none_gated | closed
    · exact passRun_of_none _ none_gated
    · obtain ⟨cause, hc⟩ := GateState.isClosed_iff.1 closed
      rw [hc, passRun_closed]
  · have hg := TransitRecord.isGated_iff.2 hphase
    refine ⟨fun hs => ?_, fun hs hd hu => ?_, fun hs hd => ?_⟩ <;> apply State.consider_run <;> rw [hl]
    · exact passRun_head_stalled hpre hg hs
    · exact passRun_head_holds hpre hg hs hc (TransitRecord.holdsBefore_iff.2 ⟨hd, hu⟩)
    · have plain : h.holdsBefore = false := TransitRecord.holdsBefore_of_spent (by rw [hd]; nofun)
      rw [passRun_head_passes hpre hg hs hc plain, GateState.afterPassage_holdAfter _ hd, passRun_closed]
  · exact (State.consider_run (by rw [hopen]; exact PassesFreely.passRun_opened free)).symm

/-- Settles O20, by the run of passages at a STEPPING gate. -/
theorem stepsCountPassages : Obligations.StepsCountPassages := by
  intro s tag n hstate hn free
  obtain ⟨front, back, hl, count, run⟩ := PassesFreely.passRun_stepping free hn
  obtain ⟨records, state⟩ := State.consider_run (by rw [hstate, run])
  refine ⟨front, back, hl, count, records, fun done => ?_, fun left => ?_⟩
  · exact state.trans (if_pos done)
  · exact state.trans (if_neg left.not_ge)

end Sys2Proof.Machine
end

section
/-! SUPPORT. The release of a gate by TAG-RESUME and TAG-STEP (R56, R61 to R63) and by the expiry of its hold timer
(R72 to R74). -/

namespace Sys2Proof.Machine

/-! ## A gate that takes a new state -/

/-- The gate leaves CLOSED for `state` with the records `l` behind it, and its head is still to be considered. -/
def State.reopened (s : State) (tag : Tag) (state : GateState) (l : List TransitRecord) : State :=
  { s with
    gates := s.gates.set tag { s.gates[tag] with state := state, timer := none }
    records := s.records.set tag l }

theorem State.reopened_records (s : State) (tag : Tag) (state : GateState) (l : List TransitRecord) :
    (s.reopened tag state l).records[tag] = l := Vector.getElem_set_self _

theorem State.reopened_gates (s : State) (tag : Tag) (state : GateState) (l : List TransitRecord) :
    (s.reopened tag state l).gates[tag] = { s.gates[tag] with state := state, timer := none } :=
  Vector.getElem_set_self _

/-- With the records that stand there, the gate alone changes. -/
theorem State.reopened_same (s : State) (tag : Tag) (state : GateState) :
    s.reopened tag state s.records[tag]
      = { s with gates := s.gates.set tag { s.gates[tag] with state := state, timer := none } } := by
  have same : s.records.set tag s.records[tag] = s.records := Vector.set_getElem_self _
  rw [State.reopened, same]

theorem State.reopened_consider_other (s : State) {tag u : Tag} (state : GateState) (l : List TransitRecord)
    (hu : u ≠ tag) : ((s.reopened tag state l).consider tag).gates[u] = s.gates[u]
      ∧ ((s.reopened tag state l).consider tag).records[u] = s.records[u] := by
  obtain ⟨records, gates⟩ := (s.reopened tag state l).consider_other hu.symm
  rw [records, gates]
  simp [State.reopened, hu.symm]

/-- The gate and the records behind the consideration that follows, told by the run of passages. -/
theorem State.reopened_consider {s : State} {tag : Tag} {state g : GateState} {l l' : List TransitRecord}
    (run : passRun state l = (g, l')) :
    ((s.reopened tag state l).consider tag).records[tag] = l'
      ∧ ((s.reopened tag state l).consider tag).gates[tag]
        = ({ s.gates[tag] with state := g, timer := none } : Gate).settleTimer (hasGated l') := by
  rw [State.consider_records_get, State.consider_gates_get, if_pos rfl, if_pos rfl, State.reopened_records,
    State.reopened_gates, run]
  exact ⟨rfl, rfl⟩

/-! ## Release -/

/-- Without a head to spend at cause WATCH-BEFORE the gate alone takes its new state (R61 to R63). -/
theorem State.release_plain {s : State} {tag : Tag} (state : GateState)
    (h : s.gates[tag].state ≠ .closed .watchBefore ∨ hasGated s.records[tag] = false) :
    s.release tag state = (s.reopened tag state s.records[tag]).consider tag := by
  have opens : s.openGate tag state = (s.reopened tag state s.records[tag]).consider tag := by
    rw [State.reopened_same]; rfl
  unfold State.release
  split
  · next hw =>
    have unspent : s.spendHead tag = s := by
      have same : s.records.set tag s.records[tag] = s.records := Vector.set_getElem_self _
      rw [State.spendHead, onHead_of_none (h.resolve_left fun hn => hn hw), State.setRecords, same]
    rw [unspent, opens]
  · exact opens

/-- At cause WATCH-BEFORE the hold of the head is spent first (R56). -/
theorem State.release_spent {s : State} {tag : Tag} (state : GateState) {pre post : List TransitRecord}
    {h : TransitRecord} (hw : s.gates[tag].state = .closed .watchBefore) (hl : s.records[tag] = pre ++ h :: post)
    (hpre : hasGated pre = false) (hg : h.isGated = true) :
    s.release tag state = (s.reopened tag state (pre ++ { h with spent := true } :: post)).consider tag := by
  rw [State.release, if_pos hw, State.spendHead_eq hl hpre hg]
  rfl

/-- A release opens the gate on some list of its tag's records. -/
theorem State.release_eq_reopened (s : State) (tag : Tag) (state : GateState) :
    ∃ l, s.release tag state = (s.reopened tag state l).consider tag := by
  by_cases h : s.gates[tag].state ≠ .closed .watchBefore ∨ hasGated s.records[tag] = false
  · exact ⟨_, State.release_plain state h⟩
  · simp only [not_or, not_not, Bool.not_eq_false] at h
    obtain ⟨hw, gated⟩ := h
    obtain ⟨pre, r, post, hl, hpre, hg⟩ := exists_head gated
    exact ⟨_, State.release_spent state hw hl hpre hg⟩

/-- What TAG-RESUME and TAG-STEP leave: an OPEN gate that is to be OPEN stays as it is (R61). -/
def State.resumed (s : State) (tag : Tag) (state : GateState) : State :=
  if state = .opened ∧ s.gates[tag].state = .opened then s else s.release tag state

theorem State.resumed_release {s : State} {tag : Tag} {state : GateState}
    (h : state ≠ .opened ∨ s.gates[tag].state ≠ .opened) : s.resumed tag state = s.release tag state :=
  if_neg (not_and_or.2 h)

theorem State.resumed_frame (s : State) (tag : Tag) (state : GateState) : s.resumed tag state
    = { s with gates := (s.resumed tag state).gates, records := (s.resumed tag state).records } := by
  unfold State.resumed
  split
  · rfl
  · obtain ⟨l, h⟩ := s.release_eq_reopened tag state
    rw [h]
    rfl

theorem State.resumed_other (s : State) {tag u : Tag} (state : GateState) (hu : u ≠ tag) :
    (s.resumed tag state).gates[u] = s.gates[u] ∧ (s.resumed tag state).records[u] = s.records[u] := by
  unfold State.resumed
  split
  · exact ⟨rfl, rfl⟩
  · obtain ⟨l, h⟩ := s.release_eq_reopened tag state
    rw [h]
    exact s.reopened_consider_other state l hu

/-- TAG-RESUME, with a gate to be OPEN, and TAG-STEP, with steps above 0, on the link (R61, R62). -/
theorem State.exec_resumed {s : State} {tag : Tag} {c : Instr} {code : Byte} {payload : List Byte}
    {state : GateState} (hp : s.takesPeriods = true)
    (hc : c = .tagResume (byteOf tag.val) ∧ code = 0x22 ∧ payload = [byteOf tag.val] ∧ state = .opened
      ∨ ∃ n : BitVec 16, n ≠ 0 ∧ c = .tagStep (byteOf tag.val) n ∧ code = 0x23
        ∧ payload = byteOf tag.val :: u16Bytes n ∧ state = .stepping n) :
    state.isClosed = false ∧ ∃ t, exec c s = .next t ∧ t.Responds code payload 0x00 []
      ∧ t = (s.resumed tag state).withLinkOf t := by
  rcases hc with ⟨rfl, rfl, rfl, rfl⟩ | ⟨n, hn, rfl, rfl, rfl, rfl⟩
  · have act : withTag (byteOf tag.val) tagResumeAct s = (s.resumed tag .opened, .ok []) := by
      rw [withTag_byteOf, tagResumeAct, State.resumed]
      simp only [true_and]
    exact ⟨rfl, State.request_ok hp act⟩
  · have act : withTag (byteOf tag.val) (tagStepAct n) s = (s.resumed tag (.stepping n), .ok []) := by
      rw [withTag_byteOf, tagStepAct, if_neg hn, State.resumed_release (state := .stepping n) (.inl nofun)]
    exact ⟨rfl, State.request_ok hp act⟩

/-- Settles O22: the release at each cause, and the run of passages behind it. -/
theorem resumeAndStepRelease : Obligations.ResumeAndStepRelease := by
  intro s tag c code payload state hp hc
  obtain ⟨hopen, t, he, hr, hf⟩ := State.exec_resumed hp hc
  have gates : t.gates = (s.resumed tag state).gates := by rw [hf]; rfl
  have records : t.records = (s.resumed tag state).records := by rw [hf]; rfl
  refine ⟨t, he, hr, ?_, fun u hu => ?_, fun h h' => ?_, fun shut plain => ?_,
    fun pre post h hl hpre hphase => ⟨fun hw => ?_, fun hn shut hs hd hu => ?_⟩⟩
  · rw [gates, records, ← State.resumed_frame]
    exact hf
  · rw [gates, records]
    exact s.resumed_other state hu
  · rw [gates, records, State.resumed, if_pos ⟨h, h'⟩]
    exact ⟨rfl, rfl⟩
  · rw [gates, records, State.resumed_release shut, State.release_plain state plain, State.reopened_same]
    exact ⟨rfl, rfl⟩
  · have hg := TransitRecord.isGated_iff.2 hphase
    have shut : s.gates[tag].state ≠ .opened := by rw [hw]; nofun
    rw [gates, records, State.resumed_release (.inr shut), State.release_spent state hw hl hpre hg]
    refine ⟨rfl, rfl, fun hs => ?_⟩
    have passes := passRun_head_passes (post := post) (h := { h with spent := true }) hpre hg hs hopen
      (TransitRecord.holdsBefore_of_spent fun _ => rfl)
    exact ⟨_, (State.reopened_consider passes).1⟩
  · have hg := TransitRecord.isGated_iff.2 hphase
    have holds := passRun_head_holds (post := post) hpre hg hs hopen (TransitRecord.holdsBefore_iff.2 ⟨hd, hu⟩)
    rw [gates, records, State.resumed_release shut, State.release_plain state (.inl hn), hl]
    obtain ⟨list, gate⟩ := State.reopened_consider (s := s) (tag := tag) holds
    have behind : hasGated (pre ++ h :: post) = true := by rw [hasGated_append, hasGated_cons, hg]; simp
    rw [list, gate, Gate.settleTimer_state, Gate.settleTimer_timer, behind]
    simp only [GateState.isClosed_closed, true_and, Option.getD_none]

/-! ## Expiry of the hold timer -/

/-- The head of a gate whose hold timer has expired with policy PASS: a HOLD-BEFORE is spent (R72). -/
theorem State.spendHold_eq {s : State} {tag : Tag} {pre post : List TransitRecord} {h : TransitRecord}
    (hl : s.records[tag] = pre ++ h :: post) (hpre : hasGated pre = false) (hg : h.isGated = true) :
    s.spendHold tag
      = s.setRecords tag (pre ++ { h with spent := h.spent || h.decision = .holdBefore } :: post) := by
  have spent : (if h.holdsBefore then { h with spent := true } else h)
      = { h with spent := h.spent || h.decision = .holdBefore } := by
    have mark : (h.spent || decide (h.decision = .holdBefore)) = if h.holdsBefore then true else h.spent := by
      cases hs : h.spent <;> simp [TransitRecord.holdsBefore, hs]
    rw [mark]
    split <;> rfl
  rw [State.spendHold, hl, onHead_append hpre hg, spent]

theorem State.expirePass_eq {s : State} {tag : Tag} (cause : CloseCause) {pre post : List TransitRecord}
    {h : TransitRecord} (hl : s.records[tag] = pre ++ h :: post) (hpre : hasGated pre = false)
    (hg : h.isGated = true) :
    s.expirePass tag cause = ((s.reopened tag .opened
      (pre ++ { h with spent := h.spent || h.decision = .holdBefore } :: post)).consider tag).place
        (.holdExpired tag cause .pass 0) none := by
  rw [State.expirePass, State.spendHold_eq hl hpre hg]
  rfl

/-- A withdrawal that opens the gate, told by the gate and the records it leaves (R64, R73). -/
theorem State.withdraw_eq_reopened (s : State) (tag : Tag) (state : GateState) :
    s.withdraw tag state = s.reopened tag state (withdrawGated s.records[tag]) := s.withdraw_eq tag state

/-- Settles O25, by policy: the head past the gate, or every GATED record withdrawn, and then the event. -/
theorem holdTimerExpiry : Obligations.HoldTimerExpiry := by
  intro s tag cause m ht htimer hstate
  have taken : exec (.holdTimerExpiry tag) s = .next (s.expireHold tag) := State.whenTakingEvents_of ht _
  refine ⟨fun hpolicy pre post h hl hpre hphase => ?_, fun hpolicy => ?_⟩
  · have hg := TransitRecord.isGated_iff.2 hphase
    have expired : s.expireHold tag = s.expirePass tag cause := by
      simp only [State.expireHold, htimer, hstate, hpolicy]
    rw [expired, State.expirePass_eq cause hl hpre hg] at taken
    refine ⟨_, taken, rfl, fun hs => ?_, fun hs => ?_⟩
    · have passes := passRun_head_passes (g := .opened) (post := post)
        (h := { h with spent := h.spent || h.decision = .holdBefore }) hpre hg hs rfl
        (TransitRecord.holdsBefore_of_spent fun hd => Bool.or_eq_true_iff.2 (.inr (decide_eq_true hd)))
      rw [(State.place_lossy _ _).1]
      exact ⟨_, (State.reopened_consider passes).1⟩
    · have waits := passRun_head_stalled (g := .opened) (post := post)
        (h := { h with spent := h.spent || h.decision = .holdBefore }) hpre hg hs
      rw [State.place_gates, (State.reopened_consider waits).2, Gate.settleTimer_state]
  · have expired : s.expireHold tag = s.expireWithdraw tag cause := by
      simp only [State.expireHold, htimer, hstate, hpolicy]
    rw [taken, expired, State.expireWithdraw, State.withdraw_eq_reopened, withdrawGated_eq]
    rfl

end Sys2Proof.Machine
end

section
/-! SUPPORT. TAG-FREEZE and TAG-LIMIT (R60, R71), and what a step does while no command waits (R70, R91, R177, R178). -/

namespace Sys2Proof.Machine

/-! ## Requests that set one gate -/

/-- A gate takes the context `g`, and its timer follows (R70). -/
theorem State.setGate_settleTimer_get (s : State) (tag u : Tag) (g : Gate) :
    ((s.setGate tag g).settleTimer tag).gates[u]
      = if tag = u then g.settleTimer (hasGated s.records[tag]) else s.gates[u] := by
  rw [State.settleTimer_gates_get, State.setGate_get, State.setGate_get, if_pos rfl, State.setGate_records]
  split <;> rfl

/-- An OK reply of a request that has set one gate: the gate, the others, and the rest of the part. -/
theorem State.request_setGate {s : State} (h : s.takesPeriods = true) {code : Byte} {payload : List Byte}
    {act : Tag → State → State × Reply} {tag : Tag} {g : Gate}
    (ha : act tag s = ((s.setGate tag g).settleTimer tag, .ok [])) :
    ∃ t, s.request (frame code payload) (withTag (byteOf tag.val) act) = .next t
      ∧ t.Responds code payload 0x00 [] ∧ t.gates[tag] = g.settleTimer (hasGated s.records[tag])
      ∧ (∀ u : Tag, u ≠ tag → t.gates[u] = s.gates[u])
      ∧ t = ({ s with gates := t.gates } : State).withLinkOf t := by
  obtain ⟨t, hx, hr, hf⟩ := State.request_ok h (code := code) (payload := payload)
    ((withTag_byteOf tag act s).trans ha)
  have gates : t.gates = ((s.setGate tag g).settleTimer tag).gates := by rw [hf]; rfl
  refine ⟨t, hx, hr, ?_, fun u hu => ?_, ?_⟩
  · rw [gates, State.setGate_settleTimer_get, if_pos rfl]
  · rw [gates, State.setGate_settleTimer_get, if_neg hu.symm]
  · rw [gates]; exact hf

/-- Settles O21, by the one gate that each request sets. -/
theorem freezeAndLimitSetGate : Obligations.FreezeAndLimitSetGate := by
  refine fun s tag hp => ⟨?_, fun limit code policy hc => ?_⟩
  · obtain ⟨t, hx, hr, gate, others, hf⟩ := State.request_setGate hp (code := 0x21) (payload := [byteOf tag.val])
      (act := tagFreezeAct) rfl
    refine ⟨t, hx, hr, gate.trans ?_, others, hf⟩
    rw [Gate.settleTimer_eq]
    simp only [GateState.isClosed_closed, true_and]
  · have known : policyOf code = some policy := by rcases hc with ⟨rfl, rfl⟩ | ⟨rfl, rfl⟩ <;> rfl
    have act : tagLimitAct limit code tag s = ((s.setGate tag
        { s.gates[tag] with limit := limit, policy := policy, timer := none }).settleTimer tag, .ok []) := by
      rw [tagLimitAct, known]
    obtain ⟨t, hx, hr, gate, others, hf⟩ := State.request_setGate hp (code := 0x25)
      (payload := byteOf tag.val :: u16Bytes limit ++ [code]) act
    refine ⟨t, hx, hr, gate.trans ?_, others, hf⟩
    rw [Gate.settleTimer_eq]
    rfl

/-! ## Time -/

theorem allTags_eq : allTags = (List.finRange 8).map id := by decide

/-- The lowest tag whose hold timer has run out (log entry 4). -/
theorem State.dueHold_eq {s : State} {tag : Tag} (h : s.gates[tag].timer = some 0)
    (hlow : ∀ u : Tag, u < tag → s.gates[u].timer ≠ some 0) : s.dueHold = some tag := by
  rw [State.dueHold, allTags_eq]
  exact find_finRange_map (p := fun t : Tag => s.gates[t].timer == some 0) (beq_iff_eq.2 h)
    fun u hu => beq_eq_false_iff_ne.2 (hlow u hu)

theorem State.dueHold_none {s : State} (h : ∀ tag : Tag, s.gates[tag].timer ≠ some 0) : s.dueHold = none := by
  rw [State.dueHold, allTags_eq]
  exact find_finRange_map_none (p := fun t : Tag => s.gates[t].timer == some 0) fun u =>
    beq_eq_false_iff_ne.2 (h u)

/-- The lowest slot whose response timer has run out (log entry 4). -/
theorem State.dueSlot_eq {s : State} {k : SlotIndex} (h : s.slots[k].isDue = true)
    (hlow : ∀ j : SlotIndex, j < k → s.slots[j].isDue = false) : s.dueSlot = some k := by
  rw [State.dueSlot, allSlots_eq]
  exact find_finRange_map (p := fun k : SlotIndex => s.slots[k].isDue) h hlow

theorem State.dueSlot_none {s : State} (h : ∀ k : SlotIndex, s.slots[k].isDue = false) : s.dueSlot = none := by
  rw [State.dueSlot, allSlots_eq]
  exact find_finRange_map_none (p := fun k : SlotIndex => s.slots[k].isDue) h

theorem State.tick_gates (s : State) (tag : Tag) :
    s.tick.gates[tag] = { s.gates[tag] with timer := s.gates[tag].timer.map (· - 1) } := by
  simp [State.tick, Gate.tick]

theorem State.tick_slots (s : State) (k : SlotIndex) : s.tick.slots[k] = s.slots[k].tick := by
  simp [State.tick]

/-- A slot that is not BUSY has no timer to run (R91). -/
theorem Slot.tick_of_not_busy {v : Slot} (h : v.isBusy = false) : v.tick = v := by
  cases v with
  | busy => cases h
  | free | lingering => rfl

/-- A step with neither a command nor a pin change waiting (log entries 4 and 19). -/
theorem step_passTime {s : State} (hq : s.pending = []) (hp : s.pins = []) : step s = .next s.passTime := by
  simp only [step, State.idle, hq, hp]

/-- Settles O2, by the first of the occurrences in their order that is due. -/
theorem emptyQueuePassesTime : Obligations.EmptyQueuePassesTime := by
  refine fun s hq => ⟨fun change rest hp => by simp only [step, State.idle, hq, hp], fun hp => ?_⟩
  rw [step_passTime hq hp]
  refine ⟨fun ht => ?_, fun ht tag hdue hlow => ?_, fun ht hold k hdue hlow => ?_, fun ht hold hslot => ?_⟩
  · rw [State.passTime, ht]; rfl
  · simp only [State.passTime, ht, State.dueHold_eq hdue hlow, if_true]
    exact (State.whenTakingEvents_of ht _).symm
  · simp only [State.passTime, ht, State.dueHold_none hold, State.dueSlot_eq hdue hlow, if_true]
    exact (State.whenTakingEvents_of ht _).symm
  · simp only [State.passTime, ht, State.dueHold_none hold, State.dueSlot_none hslot, if_true]
    refine ⟨s.tick, rfl, rfl, s.tick_gates, fun k o a b l m hk => ?_, fun k hk => ?_⟩
    · rw [s.tick_slots, hk]; rfl
    · rw [s.tick_slots, Slot.tick_of_not_busy hk]

end Sys2Proof.Machine
end

section
/-! SUPPORT. The memory port where the probe or nobody is the occupant (R89, R90, R93, R96), its slots counted (R97),
and the part at the beginning and the completion of power-on (R172, R177). -/

namespace Sys2Proof.Machine

/-! ## The probe's slot -/

/-- Value `k` of an answer's data: the one supplied for it, or zero (R87). -/
theorem answerData_get {access : Access} {n k : Nat} {values : List Beat}
    (h : k < (answerData access n values).length) :
    (answerData access n values)[k]? = some (values.getD k 0) := by
  cases access with
  | read => exact supplied_get n values k (by simpa using h)
  | write => exact absurd h (Nat.not_lt_zero k)

/-- An ERROR answer brings no data (R89). -/
theorem memoryValues_getD (code : MemoryCode) (data : List Beat) (k : Nat) :
    (memoryValues code data).getD k 0 = if code = .ok then data.getD k 0 else 0 := by
  cases code <;> rfl

theorem memoryProbeCode_eq (code : MemoryCode) :
    memoryProbeCode code = if code = .ok then .done else .memoryError := by
  cases code <;> rfl

/-- The probe at the memory completes as its slot is given another state (R89, R93, R151). -/
theorem State.setSlot_finishProbe_eq {s : State} {q : ProbeRequest} (h : s.probe = .atMemory q) (slot : SlotIndex)
    (v : Slot) (code : ProbeCode) (values : List Beat) :
    (s.setSlot slot v).finishProbe code values = ({ s with
      slots := s.slots.set slot v
      probe := .done q code (answerData q.access q.beats values) } : State).place (.probeDone code) none :=
  State.finishProbe_eq (s := s.setSlot slot v) code values (.inr h)

/-- Settles O29, by the end of the probe behind its freed slot. -/
theorem answerCompletesProbe : Obligations.AnswerCompletesProbe := by
  intro s slot access beats limit timer q code data ht hs hq
  refine ⟨answerData q.access q.beats (memoryValues code data), answerData_length _ _ _, fun k hk => ?_, ?_⟩
  · rw [answerData_get hk, memoryValues_getD]
  · have taken : s.takeAnswer slot code data
        = (s.setSlot slot .free).finishProbe (memoryProbeCode code) (memoryValues code data) := by
      simp only [State.takeAnswer, hs]
    refine (State.whenTakingEvents_of ht _).trans (congrArg _ (taken.trans ?_))
    rw [State.setSlot_finishProbe_eq hq, memoryProbeCode_eq]

/-- Settles O32, by the end of the probe behind its lingering slot. -/
theorem responseExpiryOfProbe : Obligations.ResponseExpiryOfProbe := by
  intro s slot access beats limit m q ht hs hq
  have expired : s.expireResponse slot = (s.setSlot slot .lingering).finishProbe .noAnswer [] := by
    simp only [State.expireResponse, hs]
  refine (State.whenTakingEvents_of ht _).trans (congrArg _ (expired.trans ?_))
  rw [State.setSlot_finishProbe_eq hq, answerData_nil]

/-! ## Slots without an occupant -/

/-- Settles O30, by the state of the slot that the answer names. -/
theorem answerWithoutOccupant : Obligations.AnswerWithoutOccupant := by
  intro s slot code data ht
  have taken : exec (.answer slot code data) s = .next (s.takeAnswer slot code data) :=
    State.whenTakingEvents_of ht _
  refine ⟨fun hfree => ?_, fun hlinger => ⟨s.setSlot slot .free, ?_, ?_, fun k hk => ?_, rfl⟩⟩
  · simp only [taken, State.takeAnswer, hfree]
  · simp only [taken, State.takeAnswer, hlinger]
  · rw [State.setSlot_get, if_pos rfl]
  · rw [State.setSlot_get, if_neg hk.symm]

/-! ## The slot counts -/

theorem State.slots_toList (s : State) : s.slots.toList = allSlots.map fun k => s.slots[k] := by
  rw [allSlots_eq]
  exact List.ext_getElem (by simp) (by simp)

/-- Slots counted by their numbers are slots counted in the order of the array (R97). -/
theorem State.slots_filter_length (s : State) (p : Slot → Bool) :
    (s.slots.toList.filter p).length = (allSlots.filter fun k => p s.slots[k]).length := by
  rw [s.slots_toList, List.filter_map, List.length_map]
  rfl

/-- Settles O33, by the limit written and the slots counted. -/
theorem setResponseLimitReports : Obligations.SetResponseLimitReports := by
  intro s limit hp
  rw [s.slots_filter_length, s.slots_filter_length]
  exact State.request_ok hp (act := setResponseLimitAct limit) rfl

/-! ## The probe's result and its cancellation -/

theorem probeResultBytes_eq (q : ProbeRequest) (code : ProbeCode) (data : List Beat) :
    probeResultBytes q code data = accessCode q.access :: u32Bytes q.address ++ [BitVec.ofNat 8 q.beats, code.code]
      ++ (if q.access = .read then data.flatMap beatBytes else []) := by
  cases h : q.access <;> simp only [probeResultBytes, h] <;> rfl

theorem probeResultAct_done {s : State} {q : ProbeRequest} {code : ProbeCode} {data : List Beat}
    (h : s.probe = .done q code data) :
    probeResultAct s = ({ s with probe := .idle }, .ok (probeResultBytes q code data)) := by
  simp only [probeResultAct, h]

/-- The slots behind PROBE-CANCEL: only a probe AT-MEMORY leaves one LINGERING (R96). -/
def State.slotsAfterCancel (s : State) : Vector Slot 16 :=
  if s.probe.code = 0x02 then lingerProbe s.slots else s.slots

theorem State.slotsAfterCancel_get (s : State) (k : SlotIndex) : s.slotsAfterCancel[k] =
    if s.probe.code = 0x02 ∧ s.slots[k].holdsProbe = true then .lingering else s.slots[k] := by
  unfold State.slotsAfterCancel
  split
  · next h => simp [lingerProbe, h]
  · next h => exact (if_neg fun both => h both.1).symm

theorem probeCancelAct_eq (s : State) :
    probeCancelAct s = ({ s with probe := .idle, slots := s.slotsAfterCancel }, .ok [s.probe.code]) := by
  cases h : s.probe <;> simp only [probeCancelAct, State.slotsAfterCancel, h] <;> rfl

/-- Settles O42, by the state of the probe that the request finds. -/
theorem probeResultAndCancel : Obligations.ProbeResultAndCancel := by
  refine fun s hp => ⟨fun q code data hd => ?_, ?_⟩
  · rw [← probeResultBytes_eq]
    exact State.request_ok hp (probeResultAct_done hd)
  · obtain ⟨t, ran, responds, frame⟩ :=
      State.request_ok hp (code := 0x43) (payload := []) (probeCancelAct_eq s)
    have probe : t.probe = .idle := by rw [frame]; rfl
    have slots : t.slots = s.slotsAfterCancel := by rw [frame]; rfl
    refine ⟨t, ran, ?_, probe, fun k => ?_, ?_⟩
    · convert responds using 2
      cases s.probe <;> rfl
    · rw [slots, s.slotsAfterCancel_get]
    · rw [probe, slots]; exact frame

/-! ## Power-on -/

/-- Where no period was taken LDO is undriven (R157, R172). -/
theorem State.ldoPin_of_none {s : State} (h : s.period = none) : s.ldoPin = none := by
  simp [State.ldoPin, h]

theorem State.takePin_lckRise_of_none {s : State} (h : s.period = none) (ldi : Bool) :
    s.takePin (.lckRise ldi) = .next s := by
  simp only [State.takePin, State.lckRise_of_none h, ite_self]

theorem State.takePin_lckFall_of_none {s : State} (h : s.period = none) : s.takePin .lckFall = .next s := by
  have same : { s with period := s.period.map (·.lckFall s.held) } = s := by
    cases s
    cases h
    rfl
  simp only [State.takePin, same, ite_self]

/-- LCS_N that rises where no period was taken leaves its level alone (R172). -/
theorem State.takePin_lcsRise_of_none {s : State} (h : s.period = none) (hl : s.lcsLow = true) :
    s.takePin .lcsRise = .next { s with lcsLow := false } := by
  have ends : State.periodEnds { s with lcsLow := false } = .next { s with lcsLow := false } :=
    State.periodEnds_of_none h
  simp only [State.takePin, hl, ends, if_true, ite_self]

/-- Settles O4: LCS_N and its link first, then the registers one by one. -/
theorem powerOnValues : Obligations.PowerOnValues := by
  refine ⟨fun holdboot low s hclk => ?_, fun s => ?_⟩
  · have quiet : (State.powerOn holdboot low s.lcsLow s.pending s.pins).period = none := rfl
    have first : (8 : Contender) + 1 = 0 := by decide
    refine ⟨.powerOn holdboot low s.lcsLow s.pending s.pins, congrArg _ (if_pos hclk), rfl, rfl, quiet,
      State.ldoPin_of_none quiet, fun hl => ⟨?_, State.takePin_lckRise_of_none quiet,
        State.takePin_lckFall_of_none quiet, State.takePin_lcsRise_of_none quiet hl⟩,
      rfl, rfl, rfl, rfl, rfl, rfl, rfl, fun tag => ?_, fun i => ?_, fun k => ?_, rfl, rfl,
      congrArg some first, rfl, rfl, rfl, rfl, rfl, rfl, fun _ => rfl, rfl, rfl, rfl, rfl, rfl, rfl, rfl, rfl⟩
    · simp [State.takesPeriods, hl]
    · simp [State.powerOn, State.roomIndication, State.room, Gate.powerOn, GateState.boot]
    · simp [State.powerOn, WatchEntry.powerOn, Definition.powerOn]
    · simp [State.powerOn]
  · exact ⟨_, rfl, rfl, rfl, fun _ => rfl, rfl, rfl, rfl, rfl, rfl, rfl, rfl⟩

end Sys2Proof.Machine
end

section
/-! SUPPORT. The event unit: where a new event goes (R105), what a refill moves and in which order (R115, R116), and
EVENT-TAKE and EVENT-DISCARD (R110, R112). -/

namespace Sys2Proof.Machine

/-! ## Placement -/

/-- Settles O34, by the wait, the room or the stall that the event finds. -/
theorem eventPlacement : Obligations.EventPlacement := by
  refine fun s e lossless => ⟨fun pre post w hs hpre hw => ?_, fun hn => ⟨State.place_store hn, fun hfull => ?_⟩⟩
  · refine State.place_wait ?_
    rw [hs]
    exact takeFirst_append hpre hw
  · refine ⟨?_, ?_⟩
    · rintro rfl
      exact State.place_drop hn hfull
    · rintro link rfl
      refine ⟨_, State.place_stall hn hfull, rfl, ?_, fun u hu => ?_, rfl⟩
      · rw [State.markStall_records_get, if_pos rfl]
      · rw [State.markStall_records_get, if_neg hu.symm]

/-! ## Records that are unstalled -/

/-- A record behind an unstalling is one from before it: it keeps its mark, and its stall unless the link names it
(R17, R116). -/
theorem State.mem_unstall {s : State} {l : RecordLink} {u : Tag} {r' : TransitRecord}
    (h : r' ∈ (s.unstall l).records[u]) :
    ∃ r ∈ s.records[u], r'.id = r.id ∧ r'.stalled = if l = ⟨u, r.id⟩ then false else r.stalled := by
  have considered : (s.markStall l false).GateWork false (s.unstall l) := .consider _ l.tag
  obtain ⟨m, hm, moved⟩ := exists_of_forall₂_mem (considered.moved u) h
  obtain ⟨hid, hstalled, -⟩ := moved.keepsStall
  rw [State.markStall_records] at hm
  obtain ⟨r, hr, rfl⟩ := List.mem_map.1 hm
  refine ⟨r, hr, hid.trans ?_, hstalled.trans ?_⟩ <;> split <;> rfl

/-- No record that the link names is stalled. -/
def State.Unmarked (s : State) (l : RecordLink) : Prop :=
  ∀ r ∈ s.records[l.tag], r.id = l.id → r.stalled = false

theorem State.unstall_unmarked (s : State) (l : RecordLink) : (s.unstall l).Unmarked l := by
  intro r' hr' hid
  obtain ⟨r, -, same, stalled⟩ := State.mem_unstall hr'
  rw [stalled, if_pos]
  rw [← same, hid]

/-- Unstalling a record stalls no other. -/
theorem State.Unmarked.unstall {s : State} {k : RecordLink} (h : s.Unmarked k) (l : RecordLink) :
    (s.unstall l).Unmarked k := by
  intro r' hr' hid
  obtain ⟨r, hr, same, stalled⟩ := State.mem_unstall hr'
  rw [stalled, h r hr (same.symm.trans hid), ite_self]

/-- The gates and records behind an unstalling depend on the gates and records before it alone. -/
theorem State.unstall_congr {a b : State} (hr : a.records = b.records) (hg : a.gates = b.gates) (l : RecordLink) :
    (a.unstall l).records = (b.unstall l).records ∧ (a.unstall l).gates = (b.unstall l).gates := by
  cases a
  cases b
  cases hr
  cases hg
  exact ⟨rfl, rfl⟩

/-! ## The refill -/

/-- Stalled events as they are delivered one after another (R106). -/
def State.stamps (s : State) (moved : List Stalled) : List Delivered :=
  moved.zipIdx.map fun (e, k) => ⟨s.sequence + BitVec.ofNat 16 k, if k = 0 then s.lost else 0, e.event⟩

theorem State.stamps_length (s : State) (moved : List Stalled) : (s.stamps moved).length = moved.length := by
  rw [State.stamps, List.length_map, List.length_zipIdx]

/-- The event delivered last has the numbers that those before it left. -/
theorem State.stamps_concat (s : State) (moved : List Stalled) (e : Stalled) : s.stamps (moved ++ [e]) =
    s.stamps moved ++ [⟨s.sequence + BitVec.ofNat 16 moved.length, if moved = [] then s.lost else 0, e.event⟩] := by
  simp [State.stamps, List.zipIdx_append]

/-- The records of stalled events unstalled one after another (R116). -/
def State.unstallAll (s : State) (moved : List Stalled) : State :=
  moved.foldl (fun v e => v.unstall e.link) s

theorem State.unstallAll_concat (s : State) (moved : List Stalled) (e : Stalled) :
    s.unstallAll (moved ++ [e]) = (s.unstallAll moved).unstall e.link :=
  List.foldl_concat _ _ _ _

/-- The stalled events `moved` went into the store, oldest first, on the way from `s` to `t` (R115, R116). -/
structure State.Refilled (s : State) (moved : List Stalled) (t : State) : Prop where
  stalls : s.stalls = moved ++ t.stalls
  room : s.store.length + moved.length ≤ 32 ∨ moved = []
  store : t.store = s.store ++ s.stamps moved
  sequence : t.sequence = s.sequence + BitVec.ofNat 16 moved.length
  lost : t.lost = if moved = [] then s.lost else 0
  unmarked : ∀ e ∈ moved, t.Unmarked e.link
  records : t.records = (s.unstallAll moved).records
  gates : t.gates = (s.unstallAll moved).gates

theorem State.Refilled.nothing (s : State) : s.Refilled [] s where
  stalls := rfl
  room := .inr rfl
  store := (List.append_nil _).symm
  sequence := (BitVec.add_zero _).symm
  lost := rfl
  unmarked := nofun
  records := rfl
  gates := rfl

/-- One more move, while the store has room. -/
theorem State.Refilled.move {s t : State} {moved : List Stalled} (h : s.Refilled moved t) {e : Stalled}
    {rest : List Stalled} (he : t.stalls = e :: rest) (hs : t.store.length < 32) :
    s.Refilled (moved ++ [e]) (t.moveStalled e rest) := by
  have congr := State.unstall_congr (a := ({ t with stalls := rest } : State).deliverToStore e.event)
    h.records h.gates e.link
  have stored : t.store.length = s.store.length + moved.length := by
    rw [h.store, List.length_append, State.stamps_length]
  exact {
    stalls := by simp [State.moveStalled, h.stalls, he]
    room := .inl (by rw [List.length_append, List.length_singleton]; omega)
    store := by
      rw [State.stamps_concat, ← List.append_assoc, ← h.store, ← h.sequence, ← h.lost]
      rfl
    sequence := by
      have next : (t.moveStalled e rest).sequence = t.sequence + 1 := rfl
      rw [next, h.sequence, List.length_append, BitVec.ofNat_add, BitVec.add_assoc]
      rfl
    lost := (if_neg (by simp)).symm
    unmarked := fun x hx => by
      rcases List.mem_append.1 hx with hx | hx
      · have before : (({ t with stalls := rest } : State).deliverToStore e.event).Unmarked x.link := h.unmarked x hx
        exact before.unstall e.link
      · obtain rfl := List.mem_singleton.1 hx
        exact State.unstall_unmarked _ _
    records := by rw [State.unstallAll_concat]; exact congr.1
    gates := by rw [State.unstallAll_concat]; exact congr.2 }

theorem State.refill_refilled (s : State) : ∃ moved, s.Refilled moved s.refill :=
  State.refill_induction (P := fun t => ∃ moved, s.Refilled moved t)
    (fun _ e _ ⟨moved, h⟩ he hs => ⟨moved ++ [e], h.move he hs⟩) ⟨[], .nothing s⟩

/-- Settles O36, by the moves of the refill one after another. -/
theorem refillMovesOldestFirst : Obligations.RefillMovesOldestFirst := by
  intro s
  obtain ⟨moved, h⟩ := s.refill_refilled
  exact ⟨moved, h.stalls, s.refill_done, h.room, h.store, h.sequence, h.lost, h.unmarked, ⟨h.records, h.gates⟩,
    s.refill_frame⟩

/-- An empty store takes a stall list that fits it whole (R115). -/
theorem State.refill_of_empty {s : State} (he : s.store = []) (hl : s.stalls.length ≤ 32) :
    s.refill.stalls = [] ∧ s.refill.store.length = s.stalls.length := by
  obtain ⟨moved, h⟩ := s.refill_refilled
  have stored : s.refill.store.length = moved.length := by rw [h.store, he, List.nil_append, State.stamps_length]
  have counted : s.stalls.length = moved.length + s.refill.stalls.length := by
    rw [← List.length_append, ← h.stalls]
  have emptied : s.refill.stalls = [] := by
    rcases s.refill_done with done | full
    · exact done
    · exact List.length_eq_zero_iff.1 (by omega)
  exact ⟨emptied, by rw [stored, counted, emptied, List.length_nil, Nat.add_zero]⟩

/-! ## EVENT-TAKE and EVENT-DISCARD -/

/-- Settles O37, by the reply of each request and the refill behind it. -/
theorem eventTakeAndDiscard : Obligations.EventTakeAndDiscard := by
  refine fun s hp => ⟨fun d rest hs => ?_, ?_⟩
  · have act : eventTakeAct s = ((({ s with store := rest } : State).refill).offerNext, .ok d.bytes) := by
      simp only [eventTakeAct, hs]
    exact State.request_ok hp act
  · obtain ⟨t, ran, responds, frame⟩ := State.request_ok hp (code := 0x32) (payload := [])
      (act := eventDiscardAct) rfl
    have offered := State.offerNext_frame ({ s with store := [] } : State).refill
    have stalls : t.stalls = ({ s with store := [] } : State).refill.stalls := by rw [frame, offered]; rfl
    have store : t.store = ({ s with store := [] } : State).refill.store := by rw [frame, offered]; rfl
    refine ⟨t, ran, ?_, ?_, frame⟩
    · rw [stalls]; exact responds
    · rw [stalls, store]
      exact State.refill_of_empty (s := { s with store := [] }) rfl

end Sys2Proof.Machine
end

section
/-! SUPPORT. WAIT-POST in its three outcomes (R130 to R132), and the refusals of the event unit, the wait table and
the probe engine (R110, R129, R136, R138, R141, R146, R152). -/

namespace Sys2Proof.Machine

/-! ## WAIT-POST -/

/-- The period of a request that is taken, and what stands behind it wherever its block replies OK. -/
theorem State.request_replies {s : State} (h : s.takesPeriods = true) (code : Byte) (payload : List Byte)
    (act : State → State × Reply) :
    ∃ t, s.request (frame code payload) act = .next t ∧ ∀ u data, act s = (u, .ok data) →
      t.Responds code payload 0x00 data ∧ t = u.withLinkOf t := by
  refine ⟨_, State.request_of_taken h _ _, fun u data ha => ?_⟩
  obtain ⟨t, ran, replied⟩ := State.request_ok h (code := code) (payload := payload) ha
  rw [State.request_of_taken h] at ran
  cases ran
  exact replied

/-- A post whose kinds are listed, by the checks of its handle and of the capacity (R129). -/
theorem waitPostAct_listed {kinds : Byte} (hk : kinds ≠ 0) (hb : kinds.getLsbD 7 = false) (handle tags : Byte)
    (watches : BitVec 16) (s : State) : waitPostAct handle kinds tags watches s =
      if s.handleInUse handle then (s, .refuse .inUse)
      else if 16 ≤ s.waitsPending.length + s.waitsComplete.length then (s, .refuse .full)
      else s.postWait handle ⟨kinds, tags, watches⟩ :=
  if_neg (not_or.2 ⟨hk, ne_true_of_eq_false hb⟩)

section Posted

variable {s : State} {sel : Selector}

/-- The oldest matching event of the store is taken, and the store refilled (R130). -/
theorem State.postWait_store {pre post : List Delivered} {d : Delivered} (handle : Byte)
    (hs : s.store = pre ++ d :: post) (hpre : ∀ x ∈ pre, sel.accepts x.event = false)
    (hd : sel.accepts d.event = true) :
    s.postWait handle sel =
      (({ s with
          store := pre ++ post
          waitsComplete := s.waitsComplete ++ [⟨handle, sel, d⟩] } : State).refill.offerNext,
        .ok (0x01 :: u16Bytes d.sequence)) := by
  have taken := takeFirst_append (p := fun d : Delivered => sel.accepts d.event) (post := post) hpre hd
  rw [← hs] at taken
  simp only [State.postWait, taken]

/-- With no match in the store, the oldest matching stalled event is delivered to the wait (R131). -/
theorem State.postWait_stalled {pre post : List Stalled} {e : Stalled} (handle : Byte)
    (hn : ∀ x ∈ s.store, sel.accepts x.event = false) (hs : s.stalls = pre ++ e :: post)
    (hpre : ∀ x ∈ pre, sel.accepts x.event = false) (he : sel.accepts e.event = true) :
    s.postWait handle sel =
      ((({ s with
          stalls := pre ++ post
          waitsComplete := s.waitsComplete ++ [⟨handle, sel, ⟨s.sequence, s.lost, e.event⟩⟩]
          sequence := s.sequence + 1
          lost := 0 } : State).unstall e.link).offerNext,
        .ok (0x02 :: u16Bytes s.sequence)) := by
  have passed := takeFirst_eq_none (p := fun d : Delivered => sel.accepts d.event).2 hn
  have taken := takeFirst_append (p := fun e : Stalled => sel.accepts e.event) (post := post) hpre he
  rw [← hs] at taken
  simp only [State.postWait, passed, taken]
  rfl

/-- With no match at all the wait becomes PENDING (R132). -/
theorem State.postWait_pending (handle : Byte) (hn : ∀ x ∈ s.store, sel.accepts x.event = false)
    (hs : ∀ x ∈ s.stalls, sel.accepts x.event = false) :
    s.postWait handle sel =
      ({ s with waitsPending := s.waitsPending ++ [⟨handle, sel⟩] }, .ok [0x00, 0x00, 0x00]) := by
  have passed := takeFirst_eq_none (p := fun d : Delivered => sel.accepts d.event).2 hn
  have passed' := takeFirst_eq_none (p := fun e : Stalled => sel.accepts e.event).2 hs
  simp only [State.postWait, passed, passed']
  rfl

end Posted

/-- Settles O38, by the list that holds the oldest match. -/
theorem waitPostTakesOldestMatch : Obligations.WaitPostTakesOldestMatch := by
  intro s handle kinds tags watches hp hk hb hn hc sel payload
  obtain ⟨t, ran, replied⟩ := State.request_replies hp 0x33 payload (waitPostAct handle kinds tags watches)
  rw [waitPostAct_listed hk hb, hn, if_neg Bool.false_ne_true, if_neg hc.not_ge] at replied
  exact ⟨t, ran, fun _ _ _ hs hpre hd => replied _ _ (State.postWait_store handle hs hpre hd),
    fun none_stored => ⟨fun _ _ _ hs hpre he => replied _ _ (State.postWait_stalled handle none_stored hs hpre he),
      fun none_stalled => replied _ _ (State.postWait_pending handle none_stored none_stalled)⟩⟩

/-! ## Refusals -/

/-- A selector without kinds, or with one that is none of the seven, is refused (R129). -/
theorem waitPostAct_bad_kinds {kinds : Byte} (h : kinds = 0 ∨ kinds.getLsbD 7 = true) (handle tags : Byte)
    (watches : BitVec 16) (s : State) : waitPostAct handle kinds tags watches s = (s, .refuse .badValue) :=
  if_pos h

/-- WAIT-CANCEL without a PENDING wait of its handle is refused, by whether a COMPLETE one has it (R138). -/
theorem waitCancelAct_refuse {s : State} {handle : Byte} (h : ∀ w ∈ s.waitsPending, w.handle ≠ handle) :
    waitCancelAct handle s =
      (s, .refuse (if s.waitsComplete.any (·.handle == handle) then .tooLate else .noSuch)) := by
  have missing := takeFirst_eq_none (p := fun w : PendingWait => w.handle == handle).2
    fun w hw => beq_eq_false_iff_ne.2 (h w hw)
  simp only [waitCancelAct, missing]
  split <;> rfl

section ProbeStart

variable {s : State} {q : ProbeRequest}

/-- A transfer that fails the tests of R5 is refused (R146). -/
theorem probeStartAct_malformed (hw : transferWellFormed q.access q.address q.beats q.writeData = false) :
    probeStartAct q s = (s, .refuse .badValue) := by
  rw [probeStartAct, hw]
  rfl

/-- A probe in flight is not displaced (R146). -/
theorem probeStartAct_busy (hw : transferWellFormed q.access q.address q.beats q.writeData = true)
    (hf : s.probe.inFlight = true) : probeStartAct q s = (s, .refuse .busy) := by
  rw [probeStartAct, hw, hf]
  rfl

/-- No probe starts while SYSRST_N is asserted (R146). -/
theorem probeStartAct_asserted (hw : transferWellFormed q.access q.address q.beats q.writeData = true)
    (hf : s.probe.inFlight = false) (hs : s.sysrst = true) : probeStartAct q s = (s, .refuse .badState) := by
  rw [probeStartAct, hw, hf, hs]
  rfl

end ProbeStart

theorem probeResultAct_busy {s : State} (h : s.probe.inFlight = true) : probeResultAct s = (s, .refuse .busy) := by
  cases hq : s.probe with
  | queued q | atMemory q => simp only [probeResultAct, hq]
  | idle | done => rw [hq] at h; cases h

/-- Settles O44, by the check of each block that fails first. -/
theorem eventWaitAndProbeRefusals : Obligations.EventWaitAndProbeRefusals := by
  intro s hp
  refine ⟨fun hs => ?_, fun handle kinds tags watches => ⟨fun hk => ?_, fun hk hb => ⟨fun hn => ?_, fun hn hc => ?_⟩⟩,
    fun handle hn => ⟨fun hw => ?_, fun hw => ?_⟩, fun hs => ?_, fun conditions hc => ?_,
    fun address beats data c wellFormed _ hc => ?_, fun hi => ?_, fun hf => ?_⟩
  · exact State.request_refuse (status := .empty) hp (by simp only [eventTakeAct, hs])
  · exact State.request_refuse hp (waitPostAct_bad_kinds hk handle tags watches s)
  · exact State.request_refuse hp ((waitPostAct_listed hk hb handle tags watches s).trans (if_pos hn))
  · have act := waitPostAct_listed hk hb handle tags watches s
    rw [hn, if_neg Bool.false_ne_true, if_pos hc] at act
    exact State.request_refuse hp act
  · have held : s.waitsComplete.any (·.handle == handle) = true := by simpa using hw
    have act := waitCancelAct_refuse hn
    rw [if_pos held] at act
    exact State.request_refuse hp act
  · have free : ¬ s.waitsComplete.any (·.handle == handle) = true := by simpa using hw
    have act := waitCancelAct_refuse hn
    rw [if_neg free] at act
    exact State.request_refuse hp act
  · exact State.request_refuse (status := .empty) hp (by simp only [waitTakeAct, hs])
  · exact State.request_refuse (act := attnSetAct conditions) (status := .badValue) hp (if_pos hc)
  · rcases hc with ⟨rfl, rfl⟩ | ⟨rfl, rfl⟩ <;>
      exact ⟨fun hw => State.request_refuse hp (probeStartAct_malformed hw),
        fun hw hf => State.request_refuse hp (probeStartAct_busy hw hf),
        fun hw hf hs => State.request_refuse hp (probeStartAct_asserted hw hf hs)⟩
  · exact State.request_refuse (status := .empty) hp (by simp only [probeResultAct, hi])
  · exact State.request_refuse hp (probeResultAct_busy hf)

end Sys2Proof.Machine
end

section
/-! SUPPORT. Selectors (R127, R128), and what WAIT-CANCEL, WAIT-TAKE and ATTN-SET answer and leave (R136, R138, R140,
R141). -/

namespace Sys2Proof.Machine

/-! ## Selectors -/

/-- The three conditions of R127: the kind, the tag if there is one, and the watches if there is a fired list. -/
theorem Selector.accepts_iff (sel : Selector) (e : Event) : sel.accepts e = true ↔
    sel.kinds.getLsbD e.kind = true ∧ (∀ tag ∈ e.tag?, sel.tags.getLsbD tag.val = true)
      ∧ ∀ fired ∈ e.firedList?, sel.watches = 0 ∨ ∃ i ∈ fired, sel.watches.getLsbD i.val = true := by
  unfold Selector.accepts
  cases e.tag? <;> cases e.firedList? <;> simp [and_assoc]

/-- Settles O35, by the kind, tag and fired list of each constructor. -/
theorem selectorMatching : Obligations.SelectorMatching := by
  intro sel x f tag cause policy n code watches
  simp only [Selector.accepts_iff, Event.kind, Event.tag?, Event.firedList?, Option.mem_def, Option.some.injEq,
    forall_eq', reduceCtorEq, false_implies, implies_true, and_true, watches, and_self]

/-! ## WAIT-CANCEL and WAIT-TAKE -/

/-- The first PENDING wait of the handle is freed (R138). -/
theorem waitCancelAct_pending {s : State} {pre post : List PendingWait} {w : PendingWait}
    (hs : s.waitsPending = pre ++ w :: post) (hpre : ∀ v ∈ pre, v.handle ≠ w.handle) :
    waitCancelAct w.handle s = ({ s with waitsPending := pre ++ post }, .ok []) := by
  have taken := takeFirst_append (p := fun v : PendingWait => v.handle == w.handle) (post := post)
    (fun v hv => beq_eq_false_iff_ne.2 (hpre v hv)) (beq_self_eq_true w.handle)
  simp only [waitCancelAct, hs, taken]

/-- The oldest COMPLETE wait is freed, and its handle and event returned (R136). -/
theorem waitTakeAct_complete {s : State} {w : CompleteWait} {rest : List CompleteWait}
    (hs : s.waitsComplete = w :: rest) :
    waitTakeAct s = ({ s with waitsComplete := rest }, .ok (w.handle :: w.event.bytes)) := by
  simp only [waitTakeAct, hs]

/-- Settles O39, by the reply of each request. -/
theorem waitCancelAndTake : Obligations.WaitCancelAndTake := by
  refine fun s hp => ⟨?_, fun w rest hs => State.request_ok hp (waitTakeAct_complete hs)⟩
  rintro _ pre post w hs rfl hpre
  exact State.request_ok hp (waitCancelAct_pending hs hpre)

/-! ## The attention line -/

theorem State.completionsHold_iff {s : State} : s.completionsHold = true ↔ s.waitsComplete ≠ [] := by
  simp [State.completionsHold]

theorem State.storedHolds_iff {s : State} : s.storedHolds = true ↔ s.store ≠ [] := by
  simp [State.storedHolds]

/-- ATTN is asserted while an enabled condition holds (R140). -/
theorem State.attn_iff {s : State} : s.attn = true ↔
    s.enableCompletions = true ∧ s.waitsComplete ≠ [] ∨ s.enableStored = true ∧ s.store ≠ [] := by
  rw [State.attn, Bool.or_eq_true, Bool.and_eq_true, Bool.and_eq_true, State.completionsHold_iff,
    State.storedHolds_iff]

theorem State.attnDrivenLow_iff {s : State} : s.attnDrivenLow = true ↔ s.powered = true ∧ s.attn = true :=
  Bool.and_eq_true_iff

/-- A set of the two conditions is the byte of its bits (R180). -/
theorem conditionsByte_bits {conditions : Byte} (h : conditions.toNat < 4) :
    conditionsByte (conditions.getLsbD 0) (conditions.getLsbD 1) = conditions := by
  obtain ⟨n, hn, rfl⟩ : ∃ n : Nat, n < 4 ∧ conditions = BitVec.ofNat 8 n :=
    ⟨conditions.toNat, h, by simp⟩
  interval_cases n <;> rfl

/-- A set of conditions that exist is taken as the enables (R141). -/
theorem attnSetAct_listed {conditions : Byte} (h : conditions.toNat < 4) (s : State) :
    attnSetAct conditions s =
      ({ s with enableCompletions := conditions.getLsbD 0, enableStored := conditions.getLsbD 1 },
        .ok ({ s with
          enableCompletions := conditions.getLsbD 0
          enableStored := conditions.getLsbD 1 } : State).attnBytes) :=
  if_neg (Nat.not_le.2 h)

/-- What ATTN-SET reports (10.7). -/
theorem State.attnBytes_eq (s : State) : s.attnBytes =
    [conditionsByte s.enableCompletions s.enableStored,
      BitVec.ofNat 8 ((if s.waitsComplete ≠ [] then 1 else 0) + (if s.store ≠ [] then 2 else 0)),
      if s.attn then 0x01 else 0x00,
      BitVec.ofNat 8 s.waitsPending.length, BitVec.ofNat 8 s.waitsComplete.length] := by
  simp only [State.attnBytes, conditionsByte, State.completionsHold_iff, State.storedHolds_iff]
  rfl

/-- Settles O40, by the two conditions and the reply of ATTN-SET. -/
theorem attentionFollowsConditions : Obligations.AttentionFollowsConditions := by
  refine ⟨fun s => ⟨State.attn_iff, State.attnDrivenLow_iff⟩, fun s conditions hp hc => ?_⟩
  obtain ⟨t, ran, responds, frame⟩ := State.request_ok hp (code := 0x36) (payload := [conditions])
    (attnSetAct_listed hc s)
  have completions : t.enableCompletions = conditions.getLsbD 0 := by rw [frame]; rfl
  have stored : t.enableStored = conditions.getLsbD 1 := by rw [frame]; rfl
  have attn : t.attn = ({ s with
      enableCompletions := conditions.getLsbD 0, enableStored := conditions.getLsbD 1 } : State).attn := by
    rw [frame]; rfl
  rw [State.attnBytes_eq, conditionsByte_bits hc, ← attn] at responds
  exact ⟨t, ran, completions, stored, responds, by rw [completions, stored]; exact frame⟩

end Sys2Proof.Machine
end

section
/-! SUPPORT. What stands behind a step but for queues, power, clock and link: nothing, the passing of time, or one
command that is not of the link. A law of the blocks is then kept by every step where these keep it. -/

namespace Sys2Proof.Machine

/-- What a step takes: nothing of the blocks, the passing of time, or a command (R157, R158, R161 to R163). -/
inductive State.Takes (s t : State) : Prop where
  | link (h : s.SameBlocks t)
  | time (h : t = s.passTime)
  | command (i : Instr) (hi : ∀ b, i ≠ .badFrame b ∧ i ≠ .badRequest b) (h : exec i s = .next t)

theorem State.Takes.refl (s : State) : s.Takes s := .link rfl

theorem State.takes_of_runPeriod {bytes : List Byte} {s t : State} (h : runPeriod bytes s = .next t) : s.Takes t := by
  rcases runPeriod_cases bytes s with hr | ⟨b, status, -, hr⟩ | ⟨i, hi, hr⟩ <;> rw [hr] at h
  · cases h
    exact .refl s
  · cases h
    refine .link ?_
    split <;> rfl
  · exact .command i hi h

theorem State.takes_of_exec {i : Instr} {s t : State} (h : exec i s = .next t) : s.Takes t := by
  by_cases hi : ∀ b, i ≠ .badFrame b ∧ i ≠ .badRequest b
  · exact .command i hi h
  · simp only [not_forall, not_and_or, not_not] at hi
    obtain ⟨b, rfl | rfl⟩ := hi <;> exact State.takes_of_runPeriod h

theorem State.takes_of_periodEnds {s t : State} (h : s.periodEnds = .next t) :
    ∃ u, s.SameBlocks u ∧ u.Takes t := by
  unfold State.periodEnds at h
  split at h
  · cases h
    exact ⟨s, rfl, .refl s⟩
  · split at h
    · cases h
      exact ⟨s, rfl, .link rfl⟩
    · exact ⟨{ s with period := none }, rfl, State.takes_of_runPeriod h⟩

theorem State.takes_of_takePin {change : PinChange} {s t : State} (h : s.takePin change = .next t) :
    ∃ u, s.SameBlocks u ∧ u.Takes t := by
  have ended : ∀ {v : State}, s.SameBlocks v → v.periodEnds = .next t → ∃ u, s.SameBlocks u ∧ u.Takes t :=
    fun hv hp => (State.takes_of_periodEnds hp).imp fun _ hu => ⟨hv.trans hu.1, hu.2⟩
  cases change with
  | lcsFall =>
    cases h
    refine ⟨s, rfl, .link ?_⟩
    split
    · rfl
    · split <;> rfl
  | lcsRise =>
    simp only [State.takePin] at h
    split at h
    · split at h
      · exact ended (v := { s with lcsLow := false }) rfl h
      · cases h
        exact ⟨s, rfl, .link rfl⟩
    · cases h
      exact ⟨s, rfl, .refl s⟩
  | lckRise ldi =>
    cases h
    refine ⟨s, rfl, .link ?_⟩
    split
    · exact s.lckRise_sameBlocks ldi
    · rfl
  | lckFall =>
    cases h
    refine ⟨s, rfl, .link ?_⟩
    split <;> rfl
  | clkStop =>
    cases h
    exact ⟨s, rfl, .link rfl⟩
  | clkRun =>
    simp only [State.takePin] at h
    split at h
    · cases h
      exact ⟨s, rfl, .link rfl⟩
    · exact ended (v := { s with clkRunning := true }) rfl h

theorem step_takes {s t : State} (h : step s = .next t) : ∃ u, s.SameBlocks u ∧ u.Takes t := by
  unfold step at h
  split at h
  · unfold State.idle at h
    split at h
    · exact ⟨s, rfl, .time (Host.Outcome.next.inj h).symm⟩
    · next change rest _ =>
      have queued : s.SameBlocks { s with pins := rest } := rfl
      obtain ⟨u, hu, taken⟩ := State.takes_of_takePin h
      exact ⟨u, queued.trans hu, taken⟩
  · next c rest _ => exact ⟨{ s with pending := rest }, rfl, State.takes_of_exec h⟩

/-- The property holds of the next state, if there is one. -/
def Result.Meets (P : State → Prop) (r : Result) : Prop := ∀ t, r = .next t → P t

theorem Result.meets_next {P : State → Prop} {t : State} (h : P t) : Result.Meets P (.next t) :=
  fun _ ht => Host.Outcome.next.inj ht ▸ h

section Kept

variable {P : State → Prop} {s : State}

theorem State.meets_whenTakingEvents (hs : P s) {f : State → State} (h : P (f s)) :
    Result.Meets P (s.whenTakingEvents f) := Result.meets_next (by split <;> assumption)

theorem State.meets_request (blocks : ∀ u v : State, u.SameBlocks v → P u → P v) (hs : P s)
    {act : State → State × Reply} (h : P (act s).1) (bytes : List Byte) :
    Result.Meets P (s.request bytes act) :=
  Result.meets_next (by
    split
    · exact blocks _ _ rfl h
    · exact hs)

/-- A property that only the blocks are of account to is kept by a step where time and commands keep it. -/
theorem step_keeps_of_commands (blocks : ∀ u v : State, u.SameBlocks v → P u → P v)
    (time : ∀ u : State, P u → P u.passTime)
    (command : ∀ i, (∀ b, i ≠ .badFrame b ∧ i ≠ .badRequest b) → ∀ u : State, P u → Result.Meets P (exec i u))
    {t : State} (h : step s = .next t) (hs : P s) : P t := by
  obtain ⟨u, hu, taken⟩ := step_takes h
  have before := blocks s u hu hs
  cases taken with
  | link h => exact blocks u t h before
  | time h => exact h ▸ time u before
  | command i hi h => exact command i hi u before t h

end Kept

end Sys2Proof.Machine
end

section
/-! SUPPORT. No stored or stalled event matches a PENDING wait (R132): the law through the placement of events, the
refill, and the occurrences and requests of the blocks. -/

namespace Sys2Proof.Machine

/-! ## Shared operations -/

theorem State.selectorLaw_of_no_waits {s : State} (h : s.waitsPending = []) : s.SelectorLaw := by
  unfold State.SelectorLaw
  rw [h]
  exact ⟨nofun, nofun⟩

/-- What is taken out of a list leaves a part of it. -/
theorem takeFirst_subset {α : Type} {p : α → Bool} {l rest : List α} {x : α} (h : takeFirst p l = some (x, rest)) :
    rest ⊆ l := by
  obtain ⟨pre, post, rfl, rfl, -, -⟩ := takeFirst_eq_some h
  exact ((List.sublist_cons_self x post).append_left pre).subset

section Shared

variable {s : State} (law : s.SelectorLaw)

include law

/-- Waits and events that leave bring no match. -/
theorem State.SelectorLaw.of_subset {t : State} (hw : t.waitsPending ⊆ s.waitsPending) (hs : t.store ⊆ s.store)
    (hl : t.stalls ⊆ s.stalls) : t.SelectorLaw :=
  ⟨fun w hm d hd => law.1 w (hw hm) d (hs hd), fun w hm e he => law.2 w (hw hm) e (hl he)⟩

theorem State.SelectorLaw.sameBlocks {t : State} (h : s.SameBlocks t) : t.SelectorLaw := by
  rw [h]; exact law

theorem State.SelectorLaw.offerNext : s.offerNext.SelectorLaw := by
  rw [s.offerNext_frame]; exact law

theorem State.SelectorLaw.consider (tag : Tag) : (s.consider tag).SelectorLaw := law

theorem State.SelectorLaw.unstall (link : RecordLink) : (s.unstall link).SelectorLaw := law

/-- An event stays with the part only where no PENDING wait matches it (R105). -/
theorem State.SelectorLaw.place (e : Event) (l : Option RecordLink) : (s.place e l).SelectorLaw := by
  obtain ⟨stored, stalled⟩ := law
  rcases s.place_cases e l with ⟨pre, w, post, hw, -, -, h⟩ | ⟨hn, ⟨-, h⟩ | ⟨-, ⟨k, -, h⟩ | ⟨-, h⟩⟩⟩ <;> rw [h]
  · have kept : pre ++ post ⊆ s.waitsPending := hw ▸ ((List.sublist_cons_self w post).append_left pre).subset
    exact ⟨fun v hv => stored v (kept hv), fun v hv => stalled v (kept hv)⟩
  · exact ⟨fun w hw => List.forall_mem_append.2 ⟨stored w hw, List.forall_mem_singleton.2 (hn w hw)⟩, stalled⟩
  · exact ⟨stored, fun w hw => List.forall_mem_append.2 ⟨stalled w hw, List.forall_mem_singleton.2 (hn w hw)⟩⟩
  · exact ⟨stored, stalled⟩

theorem State.SelectorLaw.report (entries : Vector WatchEntry 16) (fired : List WatchIndex) (e : Event)
    (link : RecordLink) : (s.report entries fired e link).SelectorLaw := by
  rw [State.report]
  split
  · exact law.place _ _
  · exact law

theorem State.SelectorLaw.finishProbe (code : ProbeCode) (values : List Beat) :
    (s.finishProbe code values).SelectorLaw := by
  rcases s.finishProbe_cases code values with ⟨-, h⟩ | ⟨q, -, h⟩ <;> rw [h]
  · exact law
  · exact State.SelectorLaw.place (by exact law) _ _

/-- An event that moves into the store was stalled before, so no PENDING wait matches it (R115). -/
theorem State.SelectorLaw.refill : s.refill.SelectorLaw := by
  refine State.refill_induction (P := State.SelectorLaw) (fun t e rest ⟨stored, stalled⟩ he _ => ?_) law
  rw [he] at stalled
  have moved : (({ t with stalls := rest } : State).deliverToStore e.event).SelectorLaw := by
    refine ⟨fun w hw => ?_, fun w hw => (List.forall_mem_cons.1 (stalled w hw)).2⟩
    exact List.forall_mem_append.2
      ⟨stored w hw, List.forall_mem_singleton.2 (List.forall_mem_cons.1 (stalled w hw)).1⟩
  exact moved.unstall e.link

/-! ## The initiator port and the memory port -/

theorem State.SelectorLaw.accept (tag : Tag) (privilege : Privilege) (address : Addr) (body : RequestBody) :
    (s.accept tag privilege address body).SelectorLaw := by
  unfold State.accept
  split
  · exact law
  · dsimp only
    split
    · rw [State.acceptWellFormed, State.judgeRequest_eq]
      exact ((State.SelectorLaw.report (by exact law) _ _ _ _).consider tag).offerNext
    · exact (State.SelectorLaw.place (s := s.addRecord tag _) law _ _).offerNext

theorem State.SelectorLaw.deliverResponse : s.deliverResponse.SelectorLaw := by
  unfold State.deliverResponse
  split
  · exact law
  · split
    · exact law
    · exact State.SelectorLaw.offerNext (by exact law)

theorem State.SelectorLaw.grantNext : s.grantNext.SelectorLaw := by
  unfold State.grantNext
  split
  · next slot c _ _ =>
    dsimp only
    split
    · next tag _ =>
      rcases State.grantRecord_cases { s with arbiter := c } slot tag with h | ⟨_, -, _, h⟩ <;> rw [h] <;> exact law
    · rcases State.grantProbe_cases { s with arbiter := c } slot with h | ⟨_, -, _, h⟩ <;> rw [h] <;> exact law
  · exact law

theorem State.SelectorLaw.closeAsApplied (tag : Tag) (a : Action) : (s.closeAsApplied tag a).SelectorLaw := by
  obtain ⟨_, h, -⟩ := s.closeAsApplied_eq tag a
  rw [h]; exact law

theorem State.SelectorLaw.takeAnswer (slot : SlotIndex) (code : MemoryCode) (data : List Beat) :
    (s.takeAnswer slot code data).SelectorLaw := by
  unfold State.takeAnswer
  split
  · exact law
  · exact law
  · exact State.SelectorLaw.finishProbe (by exact law) _ _
  · simp only [State.answerForRecord]
    split
    · exact law
    · split
      · rw [State.judgeResponse_eq]
        exact ((State.SelectorLaw.closeAsApplied (by exact law) _ _).report _ _ _ _).offerNext
      · exact State.SelectorLaw.offerNext (by exact law)

theorem State.SelectorLaw.expireResponse (slot : SlotIndex) : (s.expireResponse slot).SelectorLaw := by
  unfold State.expireResponse
  split
  · exact State.SelectorLaw.finishProbe (by exact law) _ _
  · simp only [State.expireRecord]
    split
    · exact law
    · exact (State.SelectorLaw.place (by exact law) _ _).offerNext
  · exact law

/-! ## The gate unit, the resets and time -/

theorem State.SelectorLaw.spendHold (tag : Tag) : (s.spendHold tag).SelectorLaw := law

theorem State.SelectorLaw.openGate (tag : Tag) (g : GateState) : (s.openGate tag g).SelectorLaw := law

theorem State.SelectorLaw.withdraw (tag : Tag) (g : GateState) : (s.withdraw tag g).SelectorLaw := law

theorem State.SelectorLaw.release (tag : Tag) (g : GateState) : (s.release tag g).SelectorLaw := by
  unfold State.release
  split
  · exact State.SelectorLaw.openGate (s := s.spendHead tag) law tag g
  · exact law.openGate tag g

theorem State.SelectorLaw.expireHold (tag : Tag) : (s.expireHold tag).SelectorLaw := by
  unfold State.expireHold
  split
  · split
    · exact ((law.spendHold tag).openGate tag .opened).place _ _
    · exact ((law.withdraw tag .opened).place _ _).offerNext
  · exact law

/-- The assertion discards the stalled events before it places its own (R121, R122). -/
theorem State.SelectorLaw.systemReset (holdboot : Bool) : (s.systemReset holdboot).SelectorLaw := by
  unfold State.systemReset
  split
  · exact law
  · have discarded : (s.discardTarget holdboot).SelectorLaw :=
      law.of_subset (List.Subset.refl _) (List.Subset.refl _) (List.nil_subset _)
    exact (discarded.finishProbe _ _).place _ _

theorem State.SelectorLaw.passTime : s.passTime.SelectorLaw := by
  unfold State.passTime
  split
  · split
    · exact law.expireHold _
    · split
      · exact law.expireResponse _
      · exact law
  · exact law

/-! ## The event unit and the wait table -/

theorem State.SelectorLaw.eventTakeAct : (eventTakeAct s).1.SelectorLaw := by
  unfold Machine.eventTakeAct
  split
  · exact law
  · next d rest h =>
    have taken : ({ s with store := rest } : State).SelectorLaw :=
      law.of_subset (List.Subset.refl _) (h ▸ List.subset_cons_self d rest) (List.Subset.refl _)
    exact taken.refill.offerNext

theorem State.SelectorLaw.eventDiscardAct : (eventDiscardAct s).1.SelectorLaw := by
  have emptied : ({ s with store := [] } : State).SelectorLaw :=
    law.of_subset (List.Subset.refl _) (List.nil_subset _) (List.Subset.refl _)
  exact emptied.refill.offerNext

/-- A new wait becomes PENDING only where it matches neither a stored nor a stalled event (R130 to R132). -/
theorem State.SelectorLaw.postWait (handle : Byte) (selector : Selector) :
    (s.postWait handle selector).1.SelectorLaw := by
  unfold State.postWait
  split
  · next d rest h =>
    have taken : ({ s with
        store := rest
        waitsComplete := s.waitsComplete ++ [CompleteWait.mk handle selector d] } : State).SelectorLaw :=
      law.of_subset (List.Subset.refl _) (takeFirst_subset h) (List.Subset.refl _)
    exact taken.refill.offerNext
  · next hstore =>
    split
    · next e rest h =>
      have taken : (({ s with stalls := rest } : State).deliverToWait e.event handle selector).SelectorLaw :=
        law.of_subset (List.Subset.refl _) (List.Subset.refl _) (takeFirst_subset h)
      exact (taken.unstall e.link).offerNext
    · next hstalls =>
      rw [takeFirst_eq_none] at hstore hstalls
      exact ⟨List.forall_mem_append.2 ⟨law.1, List.forall_mem_singleton.2 hstore⟩,
        List.forall_mem_append.2 ⟨law.2, List.forall_mem_singleton.2 hstalls⟩⟩

theorem State.SelectorLaw.waitPostAct (handle kinds tags : Byte) (watches : BitVec 16) :
    (waitPostAct handle kinds tags watches s).1.SelectorLaw := by
  unfold Machine.waitPostAct
  split
  · exact law
  · split
    · exact law
    · split
      · exact law
      · exact law.postWait handle _

theorem State.SelectorLaw.waitCancelAct (handle : Byte) : (waitCancelAct handle s).1.SelectorLaw := by
  unfold Machine.waitCancelAct
  split
  · next h => exact law.of_subset (takeFirst_subset h) (List.Subset.refl _) (List.Subset.refl _)
  · split <;> exact law

end Shared

theorem State.selectorLaw_cleared (s : State) : s.cleared.SelectorLaw :=
  State.selectorLaw_of_no_waits (by rw [s.cleared_frame]; rfl)

end Sys2Proof.Machine
end

section
/-! SUPPORT. Every command and every step keeps the law of R132. -/

namespace Sys2Proof.Machine

/-! ## Requests that leave waits and events alone -/

section Apart

variable {s : State} (law : s.SelectorLaw)

include law

theorem State.SelectorLaw.watchWriteAct (raw : RawDefinition) (i : WatchIndex) :
    (watchWriteAct raw i s).1.SelectorLaw := by
  unfold Machine.watchWriteAct
  repeat' split
  all_goals exact law

theorem State.SelectorLaw.watchStateAct (parameter : Byte) (i : WatchIndex) :
    (watchStateAct parameter i s).1.SelectorLaw := by
  unfold Machine.watchStateAct
  repeat' split
  all_goals exact law

theorem State.SelectorLaw.tagResumeAct (tag : Tag) : (tagResumeAct tag s).1.SelectorLaw := by
  unfold Machine.tagResumeAct
  dsimp only
  split
  · exact law
  · exact law.release tag _

theorem State.SelectorLaw.tagStepAct (n : BitVec 16) (tag : Tag) : (tagStepAct n tag s).1.SelectorLaw := by
  unfold Machine.tagStepAct
  split
  · exact law
  · exact law.release tag _

theorem State.SelectorLaw.tagWithdrawAct (after : Byte) (tag : Tag) : (tagWithdrawAct after tag s).1.SelectorLaw := by
  unfold Machine.tagWithdrawAct
  split
  · exact law
  · exact (law.withdraw tag _).offerNext

theorem State.SelectorLaw.tagLimitAct (limit : BitVec 16) (policy : Byte) (tag : Tag) :
    (tagLimitAct limit policy tag s).1.SelectorLaw := by
  unfold Machine.tagLimitAct
  split <;> exact law

theorem State.SelectorLaw.heldPatchAct (beat : Byte) (w : WriteBeat) (tag : Tag) :
    (heldPatchAct beat w tag s).1.SelectorLaw := by
  unfold Machine.heldPatchAct
  repeat' split
  all_goals exact law

theorem State.SelectorLaw.heldAnswerAct (values : List Beat) (tag : Tag) :
    (heldAnswerAct values tag s).1.SelectorLaw := by
  unfold Machine.heldAnswerAct
  split
  · exact law
  · exact State.SelectorLaw.offerNext (by exact law)

theorem State.SelectorLaw.waitTakeAct : (waitTakeAct s).1.SelectorLaw := by
  unfold Machine.waitTakeAct
  split <;> exact law

theorem State.SelectorLaw.attnSetAct (conditions : Byte) : (attnSetAct conditions s).1.SelectorLaw := by
  unfold Machine.attnSetAct
  split <;> exact law

theorem State.SelectorLaw.probeStartAct (q : ProbeRequest) : (probeStartAct q s).1.SelectorLaw := by
  unfold Machine.probeStartAct
  repeat' split
  all_goals exact law

theorem State.SelectorLaw.probeResultAct : (probeResultAct s).1.SelectorLaw := by
  unfold Machine.probeResultAct
  split <;> exact law

theorem State.SelectorLaw.probeCancelAct : (probeCancelAct s).1.SelectorLaw := by
  unfold Machine.probeCancelAct
  split <;> exact law

theorem State.SelectorLaw.withTag {act : Tag → State → State × Reply} (h : ∀ tag, (act tag s).1.SelectorLaw)
    (tag : Byte) : (withTag tag act s).1.SelectorLaw := by
  unfold Machine.withTag
  split
  · exact h _
  · exact law

theorem State.SelectorLaw.withEntry {act : WatchIndex → State → State × Reply}
    (h : ∀ i, (act i s).1.SelectorLaw) (index : Byte) : (withEntry index act s).1.SelectorLaw := by
  unfold Machine.withEntry
  split
  · exact h _
  · exact law

/-! ## Commands -/

theorem State.SelectorLaw.occurs {f : State → State} (h : (f s).SelectorLaw) :
    Result.Meets State.SelectorLaw (s.whenTakingEvents f) :=
  State.meets_whenTakingEvents law h

theorem State.SelectorLaw.request {act : State → State × Reply} (h : (act s).1.SelectorLaw) (bytes : List Byte) :
    Result.Meets State.SelectorLaw (s.request bytes act) :=
  State.meets_request (fun _ _ hb law => law.sameBlocks hb) law h bytes

theorem State.SelectorLaw.execReadPeriod (bytes : Nat) (readyAfter : Option Nat) :
    Result.Meets State.SelectorLaw (execReadPeriod bytes readyAfter s) := by
  refine Result.meets_next ?_
  unfold State.readPeriod
  split
  · split <;> exact law
  · exact law

theorem State.SelectorLaw.exec {i : Instr} (hi : ∀ b, i ≠ .badFrame b ∧ i ≠ .badRequest b) :
    Result.Meets State.SelectorLaw (exec i s) := by
  cases i with
  | acceptance tag p a body => exact law.occurs (law.accept tag p a body)
  | delivery => exact law.occurs law.deliverResponse
  | grant => exact law.occurs law.grantNext
  | answer k code data => exact law.occurs (law.takeAnswer k code data)
  | responseTimerExpiry k => exact law.occurs (law.expireResponse k)
  | holdTimerExpiry tag => exact law.occurs (law.expireHold tag)
  | sysrstAssertion hb => exact law.occurs (law.systemReset hb)
  | sysrstRelease => exact law.occurs (f := fun s => { s with sysrst := false }) law
  | powerOn hb low =>
    exact Result.meets_next (by split; exacts [State.selectorLaw_of_no_waits rfl, law])
  | powerOnBegin => exact Result.meets_next (State.selectorLaw_of_no_waits rfl)
  | readPeriod n r => exact law.execReadPeriod n r
  | responseReady => exact law.occurs (f := fun s => { s with held := s.held.built }) law
  | badFrame b => exact absurd rfl (hi b).1
  | badRequest b => exact absurd rfl (hi b).2
  | ident => exact law.request (act := fun s => (s, .ok Config.identPayload)) law _
  | clear => exact law.request (act := clearAct) s.selectorLaw_cleared.offerNext _
  | setResponseLimit limit => exact law.request (act := setResponseLimitAct limit) law _
  | watchWrite index d => exact law.request (law.withEntry (law.watchWriteAct d) index) _
  | watchRead index => exact law.request (law.withEntry (act := watchReadAct) (fun _ => law) index) _
  | disable index => exact law.request (law.withEntry (law.watchStateAct 0x00) index) _
  | enableLive index => exact law.request (law.withEntry (law.watchStateAct 0x01) index) _
  | enableDormant index => exact law.request (law.withEntry (law.watchStateAct 0x02) index) _
  | rearm index => exact law.request (law.withEntry (law.watchStateAct 0x03) index) _
  | watchState index parameter => exact law.request (law.withEntry (law.watchStateAct parameter) index) _
  | tagRead tag => exact law.request (law.withTag (act := tagReadAct) (fun _ => law) tag) _
  | tagFreeze tag => exact law.request (law.withTag (act := tagFreezeAct) (fun _ => law) tag) _
  | tagResume tag => exact law.request (law.withTag law.tagResumeAct tag) _
  | tagStep tag n => exact law.request (law.withTag (law.tagStepAct n) tag) _
  | tagWithdraw tag after => exact law.request (law.withTag (law.tagWithdrawAct after) tag) _
  | tagLimit tag limit policy => exact law.request (law.withTag (law.tagLimitAct limit policy) tag) _
  | heldList tag => exact law.request (law.withTag (act := heldListAct) (fun _ => law) tag) _
  | heldPatch tag beat data enables =>
    exact law.request (law.withTag (law.heldPatchAct beat ⟨data, enables⟩) tag) _
  | heldAnswer tag values => exact law.request (law.withTag (law.heldAnswerAct values) tag) _
  | eventTake => exact law.request law.eventTakeAct _
  | eventStatus => exact law.request (act := eventStatusAct) law _
  | eventDiscard => exact law.request law.eventDiscardAct _
  | waitPost handle kinds tags watches => exact law.request (law.waitPostAct handle kinds tags watches) _
  | waitCancel handle => exact law.request (law.waitCancelAct handle) _
  | waitTake => exact law.request law.waitTakeAct _
  | attnSet conditions => exact law.request (law.attnSetAct conditions) _
  | probeRead address beats => exact law.request (law.probeStartAct _) _
  | probeWrite address beats => exact law.request (law.probeStartAct _) _
  | probeResult => exact law.request law.probeResultAct _
  | probeCancel => exact law.request law.probeCancelAct _

end Apart

/-- Settles O53: an event stays with the part, and a wait becomes PENDING, only where neither finds the other. -/
theorem stepKeepsSelectorLaw : Obligations.StepKeepsSelectorLaw := by
  intro s t h law
  exact step_keeps_of_commands (P := State.SelectorLaw) (fun _ _ hb law => law.sameBlocks hb)
    (fun _ law => law.passTime) (fun _ hi _ law => law.exec hi) h law

end Sys2Proof.Machine
end

section
/-! SUPPORT. The probe that PROBE-READ and PROBE-WRITE queue (R146, R147, R149). -/

namespace Sys2Proof.Machine

/-! ## The queued probe -/

/-- A request that passes the three checks of R146 becomes the QUEUED probe in place of any previous result (R147). -/
theorem probeStartAct_accepted {s : State} {q : ProbeRequest}
    (hw : transferWellFormed q.access q.address q.beats q.writeData = true)
    (hf : s.probe.inFlight = false) (hs : s.sysrst = false) :
    probeStartAct q s = ({ s with probe := .queued q }, .ok []) := by
  rw [probeStartAct, hw, hf, hs]
  rfl

/-- Settles O41: each of the two requests is the OK reply of the block to the probe that it carries. -/
theorem probeIsQueued : Obligations.ProbeIsQueued := by
  intro s address hp hs hf
  exact ⟨fun beats hw => State.request_ok hp (code := 0x40) (probeStartAct_accepted hw hf hs),
    fun data hw => State.request_ok hp (code := 0x41) (probeStartAct_accepted hw hf hs)⟩

end Sys2Proof.Machine
end

section
/-! SUPPORT. The request payloads of the link as they are written and read (R180, R181; layouts 10.4 to 10.7): fields,
groups of variable length, and the three requests that carry them. -/

namespace Sys2Proof

open Machine BitVec

/-! ## Fields -/

theorem byteOf_toNat {n : Nat} (h : n < 256) : (byteOf n).toNat = n := by
  rw [byteOf, toNat_ofNat, Nat.mod_eq_of_lt h]

theorem byteOf_toNat_self (b : Byte) : byteOf b.toNat = b := by
  rw [byteOf, ofNat_toNat, setWidth_eq]

theorem code_of_toNat {code : Byte} {n : Nat} (h : code.toNat = n) : code = byteOf n := by
  rw [← h, byteOf_toNat_self]

/-- Neighbouring bytes of a number join to the part of it that they cover. -/
theorem extract_join {w : Nat} (v : BitVec w) (k n : Nat) :
    v.extractLsb' (k + 8) n ++ v.extractLsb' k 8 = v.extractLsb' k (n + 8) :=
  extractLsb'_append_extractLsb'_eq_extractLsb' rfl

theorem u16Of_u16Bytes (v : BitVec 16) : u16Of (v.extractLsb' 8 8) (v.extractLsb' 0 8) = v :=
  (extract_join v 0 8).trans extractLsb'_eq_self

theorem u32Of_u32Bytes (v : BitVec 32) :
    u32Of (v.extractLsb' 24 8) (v.extractLsb' 16 8) (v.extractLsb' 8 8) (v.extractLsb' 0 8) = v := by
  unfold u32Of
  rw [extract_join v 16, extract_join v 8, extract_join v 0]
  exact extractLsb'_eq_self

theorem beatOf_beatBytes (v : Beat) :
    beatOf (v.extractLsb' 0 8) (v.extractLsb' 8 8) (v.extractLsb' 16 8) (v.extractLsb' 24 8)
      (v.extractLsb' 32 8) (v.extractLsb' 40 8) (v.extractLsb' 48 8) (v.extractLsb' 56 8) = v := by
  unfold beatOf
  rw [extract_join v 48, extract_join v 40, extract_join v 32, extract_join v 24, extract_join v 16, extract_join v 8,
    extract_join v 0]
  exact extractLsb'_eq_self

theorem u16Bytes_u16Of (hi lo : Byte) : u16Bytes (u16Of hi lo) = [hi, lo] := by
  simp only [u16Bytes, List.cons.injEq, and_true]
  refine ⟨?_, ?_⟩ <;> apply eq_of_getLsbD_eq <;> intro i hi <;>
    simp only [u16Of, getLsbD_append, getLsbD_extractLsb'] <;> grind

theorem u32Bytes_u32Of (b3 b2 b1 b0 : Byte) : u32Bytes (u32Of b3 b2 b1 b0) = [b3, b2, b1, b0] := by
  simp only [u32Bytes, List.cons.injEq, and_true]
  refine ⟨?_, ?_, ?_, ?_⟩ <;> apply eq_of_getLsbD_eq <;> intro i hi <;>
    simp only [u32Of, getLsbD_append, getLsbD_extractLsb'] <;> grind

theorem beatBytes_beatOf (d0 d1 d2 d3 d4 d5 d6 d7 : Byte) :
    beatBytes (beatOf d0 d1 d2 d3 d4 d5 d6 d7) = [d0, d1, d2, d3, d4, d5, d6, d7] := by
  simp only [beatBytes, List.cons.injEq, and_true]
  refine ⟨?_, ?_, ?_, ?_, ?_, ?_, ?_, ?_⟩ <;> apply eq_of_getLsbD_eq <;> intro i hi <;>
    simp only [beatOf, getLsbD_append, getLsbD_extractLsb'] <;> grind

/-- Eight bytes or more begin with a beat. -/
theorem exists_beat {bytes : List Byte} (h : 8 ≤ bytes.length) :
    ∃ (v : Beat) (rest : List Byte), bytes = beatBytes v ++ rest := by
  match bytes, h with
  | d0 :: d1 :: d2 :: d3 :: d4 :: d5 :: d6 :: d7 :: rest, _ =>
    exact ⟨beatOf d0 d1 d2 d3 d4 d5 d6 d7, rest, by rw [beatBytes_beatOf]; rfl⟩

/-! ## Lists of beats -/

/-- Items of `n` bytes are read as they are written, to the end of the payload. -/
structure ReadsItems {α : Type} (read : List Byte → Option (List α)) (write : α → List Byte) (n : Nat) : Prop where
  pos : 0 < n
  nil : read [] = some []
  cons : ∀ x rest, read (write x ++ rest) = (read rest).map (x :: ·)
  short : ∀ bytes, bytes ≠ [] → bytes.length < n → read bytes = none
  size : ∀ x, (write x).length = n
  whole : ∀ bytes, n ≤ bytes.length → ∃ x rest, bytes = write x ++ rest

section Items

variable {α : Type} {read : List Byte → Option (List α)} {write : α → List Byte} {n : Nat}
  (items : ReadsItems read write n)

include items

theorem ReadsItems.read_write (l : List α) : read (l.flatMap write) = some l := by
  induction l with
  | nil => exact items.nil
  | cons x l ih => rw [List.flatMap_cons, items.cons, ih]; rfl

/-- Bytes of a whole number of items are read. -/
theorem ReadsItems.exists {k : Nat} {bytes : List Byte} (h : bytes.length = n * k) :
    ∃ l, read bytes = some l ∧ l.length = k := by
  induction k generalizing bytes with
  | zero =>
    rw [List.eq_nil_of_length_eq_zero h]
    exact ⟨[], items.nil, rfl⟩
  | succ k ih =>
    rw [Nat.mul_succ] at h
    obtain ⟨x, rest, rfl⟩ := items.whole bytes (by omega)
    rw [List.length_append, items.size] at h
    obtain ⟨l, hl, len⟩ := ih (bytes := rest) (by omega)
    exact ⟨x :: l, by rw [items.cons, hl]; rfl, congrArg (· + 1) len⟩

theorem ReadsItems.of_read {bytes : List Byte} {l : List α} (h : read bytes = some l) : bytes = l.flatMap write := by
  induction hn : bytes.length using Nat.strong_induction_on generalizing bytes l with
  | _ m ih =>
    by_cases empty : bytes = []
    · subst empty
      rw [items.nil] at h
      cases h
      rfl
    · by_cases short : bytes.length < n
      · rw [items.short bytes empty short] at h
        cases h
      · obtain ⟨x, rest, rfl⟩ := items.whole bytes (Nat.not_lt.1 short)
        rw [items.cons] at h
        obtain ⟨l, hl, rfl⟩ := Option.map_eq_some_iff.1 h
        have fewer : rest.length < m := by
          rw [← hn, List.length_append, items.size]
          exact Nat.lt_add_of_pos_left items.pos
        rw [List.flatMap_cons, ← ih rest.length fewer hl rfl]

end Items

theorem beats_read : ReadsItems readBeats beatBytes 8 where
  pos := by decide
  nil := rfl
  cons v rest := by
    conv_rhs => rw [← beatOf_beatBytes v]
    rfl
  short bytes hn h := by
    unfold readBeats
    split
    · contradiction
    · simp at h; omega
    · rfl
  size _ := rfl
  whole _ h := exists_beat h

/-- A beat with its enables as PROBE-WRITE carries it (10.7). -/
def WriteBeat.bytes (w : WriteBeat) : List Byte := beatBytes w.data ++ [w.enables]

theorem writeBeats_read : ReadsItems readWriteBeats WriteBeat.bytes 9 where
  pos := by decide
  nil := rfl
  cons w rest := by
    conv_rhs => rw [← show WriteBeat.mk _ w.enables = w from congrArg (WriteBeat.mk · _) (beatOf_beatBytes w.data)]
    rfl
  short bytes hn h := by
    unfold readWriteBeats
    split
    · contradiction
    · simp at h; omega
    · rfl
  size _ := rfl
  whole bytes h := by
    obtain ⟨v, rest, rfl⟩ := exists_beat (bytes := bytes) (by omega)
    match rest, h with
    | [], h => simp at h
    | enables :: rest, _ => exact ⟨⟨v, enables⟩, rest, by simp [WriteBeat.bytes]⟩

/-! ## Optional groups of a definition -/

/-- The bytes of a group: its own where it is present, and none where it is absent (10.4). -/
def groupBytes {α : Type} (write : α → List Byte) (o : Option α) : List Byte := o.elim [] write

/-- A group of `n` bytes is read as it is written, where it is present (10.4). -/
structure ReadsGroup {α : Type} (read : Bool → List Byte → Option (Option α × List Byte)) (write : α → List Byte)
    (n : Nat) : Prop where
  absent : ∀ bytes, read false bytes = some (none, bytes)
  present : ∀ x rest, read true (write x ++ rest) = some (some x, rest)
  short : ∀ bytes, bytes.length < n → read true bytes = none
  size : ∀ x, (write x).length = n
  whole : ∀ bytes, n ≤ bytes.length → ∃ x rest, bytes = write x ++ rest

section Group

variable {α : Type} {read : Bool → List Byte → Option (Option α × List Byte)} {write : α → List Byte} {n : Nat}
  (group : ReadsGroup read write n)

include group

theorem ReadsGroup.exists {b : Bool} {bytes : List Byte} (h : (if b then n else 0) ≤ bytes.length) :
    ∃ o rest, o.isSome = b ∧ bytes = groupBytes write o ++ rest := by
  cases b with
  | false => exact ⟨none, bytes, rfl, rfl⟩
  | true =>
    obtain ⟨x, rest, rfl⟩ := group.whole bytes h
    exact ⟨some x, rest, rfl, rfl⟩

theorem ReadsGroup.length (o : Option α) : (groupBytes write o).length = if o.isSome then n else 0 := by
  cases o with
  | none => rfl
  | some x => exact group.size x

theorem ReadsGroup.read_write (o : Option α) (rest : List Byte) :
    read o.isSome (groupBytes write o ++ rest) = some (o, rest) := by
  cases o with
  | none => exact group.absent _
  | some x => exact group.present x rest

theorem ReadsGroup.of_read {b : Bool} {bytes rest : List Byte} {o : Option α} (h : read b bytes = some (o, rest)) :
    o.isSome = b ∧ bytes = groupBytes write o ++ rest := by
  by_cases fits : (if b then n else 0) ≤ bytes.length
  · obtain ⟨o', rest', rfl, rfl⟩ := group.exists fits
    rw [group.read_write] at h
    cases h
    exact ⟨rfl, rfl⟩
  · cases b with
    | false => exact absurd (Nat.zero_le _) fits
    | true =>
      rw [group.short bytes (Nat.not_le.1 fits)] at h
      cases h

end Group

/-- A data qualifier: its value and its mask (10.4). -/
def Qualifier.bytes (q : Qualifier) : List Byte := beatBytes q.value ++ beatBytes q.mask

theorem qualifier_reads : ReadsGroup readQualifier Qualifier.bytes 16 where
  absent _ := rfl
  present q rest := by
    conv_rhs => rw [← show Qualifier.mk _ _ = q from
      congrArg₂ Qualifier.mk (beatOf_beatBytes q.value) (beatOf_beatBytes q.mask)]
    rfl
  short bytes h := by
    unfold readQualifier
    rw [if_pos rfl]
    split
    · simp at h; omega
    · rfl
  size _ := rfl
  whole bytes h := by
    obtain ⟨value, rest, rfl⟩ := exists_beat (bytes := bytes) (by omega)
    obtain ⟨mask, rest, rfl⟩ := exists_beat (bytes := rest) (by simp at h; omega)
    exact ⟨⟨value, mask⟩, rest, (List.append_assoc _ _ _).symm⟩

theorem skip_reads : ReadsGroup readSkip u16Bytes 2 where
  absent _ := rfl
  present v rest := by
    conv_rhs => rw [← u16Of_u16Bytes v]
    rfl
  short bytes h := by
    match bytes, h with
    | [], _ => rfl
    | [_], _ => rfl
  size _ := rfl
  whole bytes h := by
    match bytes, h with
    | hi :: lo :: rest, _ => exact ⟨u16Of hi lo, rest, by rw [u16Bytes_u16Of]; rfl⟩

theorem arms_reads : ReadsGroup readArms ([·]) 1 where
  absent _ := rfl
  present _ _ := rfl
  short bytes h := by
    match bytes, h with
    | [], _ => rfl
  size _ := rfl
  whole bytes h := by
    match bytes, h with
    | a :: rest, _ => exact ⟨a, rest, rfl⟩

/-! ## WATCH-WRITE -/

theorem RawDefinition.bytes_eq (d : RawDefinition) : d.bytes =
    u32Bytes d.base ++ u32Bytes d.limit
      ++ [d.access, d.tags, d.privilege, d.action, d.report, d.start, d.once, d.mark]
      ++ (groupBytes Qualifier.bytes d.qualifier ++ (groupBytes u16Bytes d.skip ++ groupBytes ([·]) d.arms)) := by
  unfold RawDefinition.bytes groupBytes
  rcases d.qualifier with _ | _ <;> rcases d.skip with _ | _ <;> rcases d.arms with _ | _ <;> simp [Qualifier.bytes]

/-- The bits above the three presence bits come back out of the mark (10.4). -/
theorem RawDefinition.mark_high (d : RawDefinition) : d.mark.extractLsb' 3 5 = d.markHigh := by
  apply eq_of_getLsbD_eq
  intro i hi
  simp only [RawDefinition.mark, getLsbD_append, getLsbD_extractLsb']
  grind

theorem mark_of_parts (mark : Byte) : mark.extractLsb' 3 5 ++ ofBool (mark.getLsbD 2) ++ ofBool (mark.getLsbD 1)
    ++ ofBool (mark.getLsbD 0) = mark := by
  revert mark; decide

/-- The payload of a WATCH-WRITE is read back with every field and group (10.4). -/
theorem readWatchWrite_bytes (index : Byte) (d : RawDefinition) :
    readWatchWrite (index :: d.bytes) = some (.watchWrite index d) := by
  obtain ⟨h0, h1, h2⟩ := Laws.mark_bits d
  have last := arms_reads.read_write d.arms []
  rw [List.append_nil] at last
  rw [d.bytes_eq]
  simp only [readWatchWrite, u32Bytes, List.cons_append, List.nil_append, h0, h1, h2, qualifier_reads.read_write,
    skip_reads.read_write, last, u32Of_u32Bytes, d.mark_high, Option.bind_eq_bind, Option.bind_some]

/-- What is read as a WATCH-WRITE is its payload, byte for byte (10.4). -/
theorem payload_of_readWatchWrite {payload : List Byte} {i : Instr} (h : readWatchWrite payload = some i) :
    ∃ index d, i = .watchWrite index d ∧ payload = index :: d.bytes := by
  unfold readWatchWrite at h
  split at h
  · next index b3 b2 b1 b0 l3 l2 l1 l0 access tags privilege action report start once mark rest =>
    simp only [Option.bind_eq_bind, Option.bind_eq_some_iff, Prod.exists] at h
    obtain ⟨q, rest₁, hq, skip, rest₂, hs, arms, rest₃, ha, h⟩ := h
    obtain ⟨q_present, rfl⟩ := qualifier_reads.of_read hq
    obtain ⟨skip_present, rfl⟩ := skip_reads.of_read hs
    obtain ⟨arms_present, rfl⟩ := arms_reads.of_read ha
    split at h
    · cases h
      refine ⟨_, _, rfl, ?_⟩
      rw [RawDefinition.bytes_eq]
      simp only [RawDefinition.mark, q_present, skip_present, arms_present, mark_of_parts, u32Bytes_u32Of]
      simp
    · cases h
  · cases h

/-- The length that the mark at payload offset 16 calls for (10.4, R181). -/
theorem exists_mark_of_permitted {payload : List Byte} (h : lengthPermitted 0x10 payload = true) :
    ∃ mark, payload[16]? = some mark ∧ payload.length = 17 + (if mark.getLsbD 0 then 16 else 0)
      + (if mark.getLsbD 1 then 2 else 0) + (if mark.getLsbD 2 then 1 else 0) := by
  unfold lengthPermitted at h
  rcases hm : payload[16]? with _ | mark
  · simp [hm] at h
  · exact ⟨mark, rfl, by simpa [hm] using h⟩

/-- A payload is read as a WATCH-WRITE exactly when its groups fill the length that its mark calls for (R181). -/
theorem readWatchWrite_isSome (payload : List Byte) :
    (readWatchWrite payload).isSome = lengthPermitted 0x10 payload := by
  rw [Bool.eq_iff_iff, Option.isSome_iff_exists]
  constructor
  · rintro ⟨i, h⟩
    obtain ⟨index, d, -, rfl⟩ := payload_of_readWatchWrite h
    exact (Laws.PayloadLength.watchWrite index d rfl _ rfl).2
  · intro h
    obtain ⟨mark, marked, len⟩ := exists_mark_of_permitted h
    have long : 17 ≤ payload.length := by omega
    match payload, long, marked, len with
    | index :: b3 :: b2 :: b1 :: b0 :: l3 :: l2 :: l1 :: l0 :: access :: tags :: privilege :: action :: report :: start
        :: once :: last :: rest, _, marked, len =>
      obtain rfl : last = mark := Option.some.inj marked
      simp only [List.length_cons] at len
      obtain ⟨q, rest, hq, rfl⟩ := qualifier_reads.exists (b := last.getLsbD 0) (bytes := rest) (by omega)
      rw [List.length_append, qualifier_reads.length, hq] at len
      obtain ⟨skip, rest, hs, rfl⟩ := skip_reads.exists (b := last.getLsbD 1) (bytes := rest) (by omega)
      rw [List.length_append, skip_reads.length, hs] at len
      obtain ⟨arms, rest, ha, rfl⟩ := arms_reads.exists (b := last.getLsbD 2) (bytes := rest) (by omega)
      rw [List.length_append, arms_reads.length, ha] at len
      obtain rfl : rest = [] := List.eq_nil_of_length_eq_zero (by omega)
      simp only [readWatchWrite, ← hq, ← hs, ← ha, qualifier_reads.read_write, skip_reads.read_write,
        arms_reads.read_write, Option.bind_eq_bind, Option.bind_some]
      exact ⟨_, rfl⟩

/-! ## HELD-ANSWER and PROBE-WRITE -/

theorem readHeldAnswer_values (tag : Byte) {values : List Beat} (h : values.length ≤ 16) :
    readHeldAnswer (tag :: byteOf values.length :: values.flatMap beatBytes) = some (.heldAnswer tag values) := by
  have count := byteOf_toNat (n := values.length) (by omega)
  simp only [readHeldAnswer, beats_read.read_write, count, h, if_true]

theorem payload_of_readHeldAnswer {payload : List Byte} {i : Instr} (h : readHeldAnswer payload = some i) :
    ∃ tag values, values.length ≤ 16 ∧ i = .heldAnswer tag values
      ∧ payload = tag :: byteOf values.length :: values.flatMap beatBytes := by
  unfold readHeldAnswer at h
  split at h
  · next tag count rest =>
    split at h
    · next fits =>
      split at h
      · next values read =>
        split at h
        · next len =>
          cases h
          exact ⟨tag, values, len.trans_le fits, rfl, by rw [len, byteOf_toNat_self, ← beats_read.of_read read]⟩
        · cases h
      · cases h
    · cases h
  · cases h

theorem readHeldAnswer_isSome (payload : List Byte) :
    (readHeldAnswer payload).isSome = lengthPermitted 0x28 payload := by
  rw [Bool.eq_iff_iff, Option.isSome_iff_exists]
  constructor
  · rintro ⟨i, h⟩
    obtain ⟨tag, values, fits, -, rfl⟩ := payload_of_readHeldAnswer h
    exact (Laws.PayloadLength.heldAnswer tag values (decide_eq_true fits) _ rfl).2
  · intro h
    match payload, h with
    | tag :: count :: rest, h =>
      obtain ⟨fits, len⟩ : count.toNat ≤ 16 ∧ rest.length + 2 = 2 + 8 * count.toNat := by
        simpa [lengthPermitted] using h
      obtain ⟨values, read, counted⟩ := beats_read.exists (k := count.toNat) (bytes := rest) (by omega)
      exact ⟨.heldAnswer tag values, by simp only [readHeldAnswer, fits, read, counted, if_true]⟩

theorem readProbeWrite_beats (address : Addr) {beats : List WriteBeat} (h : beats.length ≤ 17) :
    readProbeWrite (u32Bytes address ++ byteOf beats.length :: beats.flatMap WriteBeat.bytes)
      = some (.probeWrite address beats) := by
  have count := byteOf_toNat (n := beats.length) (by omega)
  simp only [readProbeWrite, u32Bytes, List.cons_append, List.nil_append, writeBeats_read.read_write, count, if_true,
    u32Of_u32Bytes]

theorem payload_of_readProbeWrite {payload : List Byte} {i : Instr} (h : readProbeWrite payload = some i) :
    ∃ address beats, beats.length < 256 ∧ i = .probeWrite address beats
      ∧ payload = u32Bytes address ++ byteOf beats.length :: beats.flatMap WriteBeat.bytes := by
  unfold readProbeWrite at h
  split at h
  · next a3 a2 a1 a0 count rest =>
    split at h
    · next beats read =>
      split at h
      · next len =>
        cases h
        refine ⟨_, beats, len.trans_lt count.isLt, rfl, ?_⟩
        rw [len, byteOf_toNat_self, ← writeBeats_read.of_read read, u32Bytes_u32Of]
        rfl
      · cases h
    · cases h
  · cases h

theorem readProbeWrite_isSome (payload : List Byte) :
    (readProbeWrite payload).isSome = lengthPermitted 0x41 payload := by
  rw [Bool.eq_iff_iff, Option.isSome_iff_exists]
  constructor
  · rintro ⟨i, h⟩
    obtain ⟨address, beats, fits, -, rfl⟩ := payload_of_readProbeWrite h
    have count := byteOf_toNat fits
    have size : (beats.flatMap WriteBeat.bytes).length = 9 * beats.length := Laws.writeBeats_length beats
    simp [lengthPermitted, u32Bytes, count, size]
    omega
  · intro h
    match payload, h with
    | a3 :: a2 :: a1 :: a0 :: count :: rest, h =>
      have len : rest.length + 5 = 5 + 9 * count.toNat := by simpa [lengthPermitted] using h
      obtain ⟨beats, read, counted⟩ := writeBeats_read.exists (k := count.toNat) (bytes := rest) (by omega)
      exact ⟨.probeWrite (u32Of a3 a2 a1 a0) beats, by simp only [readProbeWrite, read, counted, if_true]⟩

/-! ## Requests of a fixed length -/

theorem read0_isSome (i : Instr) (payload : List Byte) : (read0 i payload).isSome = (payload.length == 0) := by
  rcases payload with _ | _ <;> rfl

theorem read1_isSome (i : Byte → Instr) (payload : List Byte) : (read1 i payload).isSome = (payload.length == 1) := by
  rcases payload with _ | ⟨_, _ | _⟩ <;> rfl

theorem readWatchState_isSome (payload : List Byte) : (readWatchState payload).isSome = (payload.length == 2) := by
  rcases payload with _ | ⟨_, _ | ⟨_, _ | _⟩⟩
  · rfl
  · rfl
  · simp only [readWatchState]
    split <;> rfl
  · rfl

/-- Settles O51, code by code: the requests without parameters, those of one byte, those of 2, 3, 4, 5 and 11 bytes, the
three of variable length and WATCH-STATE, and the codes that name no request. -/
theorem permittedLengthsAreRead : Obligations.PermittedLengthsAreRead := by
  intro code payload
  unfold decodeRequest
  split
  case h_27 =>
    unfold lengthPermitted
    split
    case h_27 => rfl
    all_goals contradiction
  all_goals
    rename_i hc
    rw [code_of_toNat hc]
  case h_1 | h_2 | h_16 | h_17 | h_18 | h_21 | h_25 | h_26 => exact read0_isSome _ payload
  case h_5 | h_7 | h_8 | h_9 | h_13 | h_20 | h_22 => exact read1_isSome _ payload
  case h_3 | h_11 => rcases payload with _ | ⟨_, _ | ⟨_, _ | _⟩⟩ <;> rfl
  case h_10 => rcases payload with _ | ⟨_, _ | ⟨_, _ | ⟨_, _ | _⟩⟩⟩ <;> rfl
  case h_12 => rcases payload with _ | ⟨_, _ | ⟨_, _ | ⟨_, _ | ⟨_, _ | _⟩⟩⟩⟩ <;> rfl
  case h_19 | h_23 => rcases payload with _ | ⟨_, _ | ⟨_, _ | ⟨_, _ | ⟨_, _ | ⟨_, _ | _⟩⟩⟩⟩⟩ <;> rfl
  case h_14 =>
    rcases payload with _ | ⟨_, _ | ⟨_, _ | ⟨_, _ | ⟨_, _ | ⟨_, _ | ⟨_, _ | ⟨_, _ | ⟨_, _ | ⟨_, _ | ⟨_, _ | ⟨_, _ |
      _⟩⟩⟩⟩⟩⟩⟩⟩⟩⟩⟩ <;> rfl
  case h_4 => exact readWatchWrite_isSome payload
  case h_15 => exact readHeldAnswer_isSome payload
  case h_24 => exact readProbeWrite_isSome payload
  case h_6 => exact readWatchState_isSome payload

end Sys2Proof
end

section
/-! SUPPORT. Requests written as code and payload and read back, byte for byte (R162, R181; layouts 10.4 to 10.7). -/

namespace Sys2Proof

open Machine

/-! ## From a command to its payload and back -/

/-- The payload that carries a command is read as that command (10.4 to 10.7). -/
theorem decodeRequest_payload {i : Instr} (hw : i.wellFormed = true) {code : Byte} (hc : i.requestCode = some code) :
    decodeRequest code i.payload = some i := by
  cases i with
  | acceptance | delivery | grant | answer | responseTimerExpiry | holdTimerExpiry | sysrstAssertion | sysrstRelease
  | powerOn | powerOnBegin | readPeriod | responseReady | badFrame | badRequest => cases hc
  | setResponseLimit limit =>
    cases hc
    exact congrArg (fun v => some (Instr.setResponseLimit v)) (u16Of_u16Bytes limit)
  | tagStep tag n =>
    cases hc
    exact congrArg (fun v => some (Instr.tagStep tag v)) (u16Of_u16Bytes n)
  | tagLimit tag limit policy =>
    cases hc
    exact congrArg (fun v => some (Instr.tagLimit tag v policy)) (u16Of_u16Bytes limit)
  | waitPost handle kinds tags watches =>
    cases hc
    exact congrArg (fun v => some (Instr.waitPost handle kinds tags v)) (u16Of_u16Bytes watches)
  | heldPatch tag beat data enables =>
    cases hc
    exact congrArg (fun v => some (Instr.heldPatch tag beat v enables)) (beatOf_beatBytes data)
  | probeRead address beats =>
    cases hc
    exact congrArg (fun v => some (Instr.probeRead v beats)) (u32Of_u32Bytes address)
  | watchWrite index d =>
    cases hc
    exact readWatchWrite_bytes index d
  | heldAnswer tag values =>
    cases hc
    exact readHeldAnswer_values tag (of_decide_eq_true hw)
  | probeWrite address beats =>
    cases hc
    exact readProbeWrite_beats address (of_decide_eq_true hw)
  | watchState index parameter =>
    cases hc
    have named : 4 ≤ parameter.toNat := of_decide_eq_true hw
    change readWatchState [index, parameter] = _
    simp only [readWatchState]
    split
    case h_5 => rfl
    all_goals omega
  | _ => cases hc; rfl

/-- The command has this request code and payload. -/
def Instr.Carries (i : Instr) (code : Byte) (payload : List Byte) : Prop :=
  i.requestCode = some code ∧ i.payload = payload

theorem carries_of_read0 {i j : Instr} {code : Byte} {payload : List Byte} (h : read0 i payload = some j)
    (hi : i.Carries code []) : j.Carries code payload := by
  unfold read0 at h
  split at h <;> cases h
  exact hi

theorem carries_of_read1 {i : Byte → Instr} {j : Instr} {code : Byte} {payload : List Byte}
    (h : read1 i payload = some j) (hi : ∀ a, (i a).Carries code [a]) : j.Carries code payload := by
  unfold read1 at h
  split at h <;> cases h
  exact hi _

theorem carries_of_readWatchState {i : Instr} {payload : List Byte} (h : readWatchState payload = some i) :
    i.Carries 0x12 payload := by
  unfold readWatchState at h
  split at h
  · next index parameter =>
    split at h <;> cases h
    case h_5 => exact ⟨rfl, rfl⟩
    all_goals
      next hp =>
        obtain rfl := code_of_toNat hp
        exact ⟨rfl, rfl⟩
  · cases h

/-- What a code and payload are read as is carried by them: every byte comes back (R181). -/
theorem carries_of_decodeRequest {code : Byte} {payload : List Byte} {i : Instr}
    (h : decodeRequest code payload = some i) : i.Carries code payload := by
  unfold decodeRequest at h
  split at h
  case h_27 => cases h
  all_goals
    rename_i hc
    rw [code_of_toNat hc]
  case h_1 | h_2 | h_16 | h_17 | h_18 | h_21 | h_25 | h_26 => exact carries_of_read0 h ⟨rfl, rfl⟩
  case h_5 | h_7 | h_8 | h_9 | h_13 | h_20 | h_22 => exact carries_of_read1 h fun _ => ⟨rfl, rfl⟩
  case h_3 | h_10 | h_11 | h_12 | h_14 | h_19 | h_23 =>
    split at h <;> cases h
    exact ⟨rfl, by simp [Instr.payload, u16Bytes_u16Of, u32Bytes_u32Of, beatBytes_beatOf]⟩
  case h_4 =>
    obtain ⟨index, d, rfl, rfl⟩ := payload_of_readWatchWrite h
    exact ⟨rfl, rfl⟩
  case h_6 => exact carries_of_readWatchState h
  case h_15 =>
    obtain ⟨tag, values, -, rfl, rfl⟩ := payload_of_readHeldAnswer h
    exact ⟨rfl, rfl⟩
  case h_24 =>
    obtain ⟨address, beats, -, rfl, rfl⟩ := payload_of_readProbeWrite h
    exact ⟨rfl, rfl⟩

/-! ## Payload lengths -/

/-- Every payload fits a frame (R161). -/
theorem payload_length_le {i : Instr} (hw : i.wellFormed = true) : i.payload.length ≤ 160 := by
  cases i with
  | watchWrite index d => exact (Laws.PayloadLength.watchWrite index d hw _ rfl).1
  | heldAnswer tag values => exact (Laws.PayloadLength.heldAnswer tag values hw _ rfl).1
  | probeWrite address beats => exact (Laws.PayloadLength.probeWrite address beats hw _ rfl).1
  | _ => exact Nat.le_of_ble_eq_true rfl

/-- No request code is the byte that begins a read period (R158). -/
theorem requestCode_ne {i : Instr} {code : Byte} (h : i.requestCode = some code) : code ≠ 0xFF := by
  cases i <;> cases h <;> decide

end Sys2Proof
end

section
/-! SUPPORT. Frames as they are written and read (R160, R161), and the periods that the link refuses (R162, R165). -/

namespace Sys2Proof.Machine

/-! ## The CRC -/

/-- The register's top bit decides one step (R160). -/
theorem crcBit_eq (reg : Byte) (bit : Bool) :
    crcBit reg bit = if reg.getLsbD 7 ≠ bit then (reg <<< 1) ^^^ 0x07 else reg <<< 1 := by
  simp [crcBit, BitVec.msb_eq_getLsbD_last]

theorem crc8_concat (bytes : List Byte) (b : Byte) : crc8 (bytes ++ [b]) = crcByte (crc8 bytes) b := by
  simp [crc8]

/-- Over a whole frame the CRC is 00h (R160). -/
theorem crc8_frame (head : Byte) (payload : List Byte) : crc8 (frame head payload) = 0x00 := by
  rw [frame, crc8_concat]
  exact crcByte_self _

/-! ## Reading a frame -/

@[simp] theorem frame_length (head : Byte) (payload : List Byte) :
    (frame head payload).length = payload.length + 3 := by
  simp [frame]

/-- The checks of R161 on three or more bytes: the length byte counts the payload and is at most 160, and the last
byte is the CRC of the others. -/
theorem openFrame_parts (code len crc : Byte) (payload : List Byte) :
    openFrame (code :: len :: (payload ++ [crc])) =
      if len.toNat ≤ 160 ∧ payload.length = len.toNat ∧ crc8 (code :: len :: payload) = crc then some (code, payload)
      else none := by
  by_cases hl : len.toNat ≤ 160
  · by_cases hn : payload.length = len.toNat
    · have fits : payload.length ≤ 160 := hn.trans_le hl
      simp [openFrame, ← hn, fits, Nat.not_lt.2 fits, List.getLast?_cons]
    · simp [openFrame, hl, hn]
  · simp [openFrame, hl, Nat.not_le.1 hl]

theorem openFrame_short {bytes : List Byte} (h : bytes.length < 3) : openFrame bytes = none := by
  unfold openFrame
  split
  · rw [if_pos h]
  · rfl

/-- Three or more bytes are a code, a length byte, a payload and a CRC (R161). -/
theorem exists_parts {bytes : List Byte} (h : 3 ≤ bytes.length) :
    ∃ code len crc payload, bytes = code :: len :: (payload ++ [crc]) := by
  match bytes, h with
  | code :: len :: b :: rest, _ =>
    exact ⟨code, len, _, _, by rw [List.dropLast_append_getLast (List.cons_ne_nil b rest)]⟩

/-- The frame of a payload that fits passes the checks of R161 and gives it back. -/
theorem openFrame_frame (code : Byte) {payload : List Byte} (h : payload.length ≤ 160) :
    openFrame (frame code payload) = some (code, payload) := by
  have len : (byteOf payload.length).toNat = payload.length := byteOf_toNat (by omega)
  exact (openFrame_parts code _ _ payload).trans (if_pos ⟨len.trans_le h, len.symm, rfl⟩)

/-- A frame that passes the checks is the frame of what it gives (R160, R161). -/
theorem frame_of_openFrame {bytes payload : List Byte} {code : Byte} (h : openFrame bytes = some (code, payload)) :
    bytes = frame code payload ∧ payload.length ≤ 160 := by
  have long : 3 ≤ bytes.length := by
    by_contra hs
    rw [openFrame_short (Nat.not_le.1 hs)] at h
    cases h
  obtain ⟨c, len, crc, rest, rfl⟩ := exists_parts long
  rw [openFrame_parts] at h
  split at h
  · next hc =>
    obtain ⟨fits, count, rfl⟩ := hc
    cases h
    have counted : byteOf payload.length = len := by rw [count, byteOf_toNat_self]
    exact ⟨by rw [frame, counted]; rfl, count.trans_le fits⟩
  · cases h

/-- Settles O49: a byte is eight steps of the register, and the CRC byte shifts its own value out. -/
theorem crcOfFrames : Obligations.CrcOfFrames := by
  refine ⟨rfl, fun bytes b => ?_, by decide, by decide, crc8_frame, fun code payload => openFrame_frame code⟩
  rw [crc8_concat]
  simp only [crcByte, List.foldl_cons, List.foldl_nil, crcBit_eq]

/-! ## Refused periods -/

/-- A period whose frame fails a check of R161 is taken as that. -/
theorem decodePeriod_badFrame {code : Byte} {rest : List Byte} (hc : code ≠ 0xFF)
    (h : openFrame (code :: rest) = none) : decodePeriod (code :: rest) = some (.badFrame (code :: rest)) := by
  simp only [decodePeriod, if_neg hc, h]

/-- The three checks of R161, each failed. -/
theorem openFrame_refused {code : Byte} {rest : List Byte}
    (h : rest.length < 2 ∨ ∃ len, rest[0]? = some len ∧ (160 < len.toNat ∨ rest.length ≠ len.toNat + 2
      ∨ crc8 ((code :: rest).dropLast) ≠ (code :: rest).getLastD 0)) : openFrame (code :: rest) = none := by
  by_cases hs : rest.length < 2
  · exact openFrame_short (Nat.succ_lt_succ hs)
  · obtain ⟨c, len, crc, payload, parts⟩ := exists_parts (bytes := code :: rest) (Nat.succ_le_succ (Nat.not_lt.1 hs))
    obtain ⟨rfl, rfl⟩ := List.cons.inj parts
    obtain ⟨len', first, fails⟩ := h.resolve_left hs
    cases first
    rw [openFrame_parts]
    refine if_neg fun ⟨fits, count, check⟩ => ?_
    rcases fails with fails | fails | fails
    · omega
    · simp [count] at fails
    · refine fails ?_
      rw [← List.cons_append, ← List.cons_append, List.dropLast_concat, check, List.getLastD_concat]

/-- A frame whose code and payload are read as no request is taken as refused by R162. -/
theorem decodePeriod_badRequest {code : Byte} {payload : List Byte} (hc : code ≠ 0xFF) (hp : payload.length ≤ 160)
    (h : decodeRequest code payload = none) :
    decodePeriod (frame code payload) = some (.badRequest (frame code payload)) := by
  have opened := openFrame_frame code hp
  rw [frame, List.cons_append] at opened ⊢
  simp only [decodePeriod, if_neg hc, opened, h]

/-- A refused period leaves its response READY, and nothing outside the link changes (R161, R162, R165). -/
theorem State.refusePeriod_of_taken {s : State} (h : s.takesPeriods = true) (bytes : List Byte) (status : Status) :
    s.refusePeriod bytes status = .next (s.endPeriod bytes (.ready (frame status.code []))) :=
  State.whenTakingPeriods_of h _

theorem decodeRequest_of_forbidden {code : Byte} {payload : List Byte} (h : lengthPermitted code payload = false) :
    decodeRequest code payload = none := by
  rw [← permittedLengthsAreRead, Option.isSome_eq_false_iff] at h
  exact Option.isNone_iff_eq_none.1 h

/-- Settles O48: each period is read as its refusal, which ends it on the link alone. -/
theorem linkRefusals : Obligations.LinkRefusals := by
  refine ⟨fun s code rest hp hc refused => ?_, fun s code payload hp hc fits forbidden => ?_⟩
  · change runPeriod (code :: rest) s = _
    rw [runPeriod, decodePeriod_badFrame hc (openFrame_refused refused)]
    exact State.refusePeriod_of_taken hp _ _
  · have unread := decodeRequest_of_forbidden forbidden
    change runPeriod (frame code payload) s = _
    have short : (frame code payload).take 163 = frame code payload :=
      List.take_of_length_le (by rw [frame_length]; omega)
    rw [runPeriod, decodePeriod_badRequest hc fits unread]
    refine (State.refusePeriod_of_taken hp _ _).trans ?_
    rw [State.endPeriod, short, frame_length]
    rfl

/-! ## Read periods -/

/-- The byte that a read period sends behind its first one (R166). -/
theorem HeldResponse.sent_succ_get {held : HeldResponse} {n j : Nat} (h : j + 1 < n) (r : Option Nat) :
    (held.sent n r)[j + 1]? = some ((held.stream r).getD j 0xFF) := by
  rw [HeldResponse.sent, List.getElem?_take_of_lt h, List.cons_append, List.getElem?_cons_succ]
  by_cases hj : j < (held.stream r).length
  · rw [List.getElem?_append_left hj, List.getD_eq_getElem?_getD, List.getElem?_eq_getElem hj]
    rfl
  · rw [List.getElem?_append_right (Nat.not_lt.1 hj), List.getElem?_replicate_of_lt (by omega),
      List.getD_eq_default _ _ (Nat.not_lt.1 hj)]

@[simp] theorem HeldResponse.sent_length (held : HeldResponse) (n : Nat) (r : Option Nat) :
    (held.sent n r).length = n := by
  simp [HeldResponse.sent]
  omega

theorem HeldResponse.sent_first {held : HeldResponse} {n : Nat} (h : 1 ≤ n) (r : Option Nat) :
    (held.sent n r)[0]? = some 0xFF := by
  rw [HeldResponse.sent, List.getElem?_take_of_lt h]
  rfl

/-- Where no response is READY a read period sends 0FFh throughout (R158, R166). -/
theorem HeldResponse.sent_of_nothing {held : HeldResponse} {r : Option Nat} (h : held.stream r = []) (n : Nat) :
    held.sent n r = List.replicate n 0xFF := by
  simp [HeldResponse.sent, h, ← List.replicate_succ]

theorem execReadPeriod_of_taken {s : State} (h : s.takesPeriods = true) {n : Nat} (hn : 1 ≤ n) (r : Option Nat) :
    exec (.readPeriod n r) s = .next { s with ldo := s.held.sent n r, held := s.held.afterRead n r } := by
  refine (State.whenTakingPeriods_of h _).trans ?_
  rw [State.readPeriod, if_neg (Nat.one_le_iff_ne_zero.1 hn)]

/-- The response `f` is sent in a read period behind `k` bytes that follow the first (R166; log entry 11). -/
def HeldResponse.Follows (held : HeldResponse) (r : Option Nat) (k : Nat) (f : List Byte) : Prop :=
  held = .ready f ∧ k = 0 ∨ held = .preparing f ∧ r = some k

theorem HeldResponse.Follows.stream {held : HeldResponse} {r : Option Nat} {k : Nat} {f : List Byte}
    (h : held.Follows r k f) : held.stream r = List.replicate k 0xFF ++ f := by
  rcases h with ⟨rfl, rfl⟩ | ⟨rfl, rfl⟩ <;> rfl

theorem HeldResponse.Follows.afterRead {held : HeldResponse} {r : Option Nat} {k : Nat} {f : List Byte}
    (h : held.Follows r k f) (n : Nat) : held.afterRead n r =
      if 1 + k + f.length ≤ n then .none else if 1 + k ≤ n then .ready f else held := by
  rcases h with ⟨rfl, rfl⟩ | ⟨rfl, rfl⟩
  · simp [HeldResponse.afterRead]
  · rfl

theorem HeldResponse.afterRead_of_nothing {held : HeldResponse} (h : held = .none ∨ ∃ f, held = .preparing f)
    (n : Nat) : held.stream Option.none = [] ∧ held.afterRead n Option.none = held := by
  rcases h with rfl | ⟨f, rfl⟩ <;> exact ⟨rfl, rfl⟩

/-- Settles O47: the bytes sent by place, then the three lengths at which a response can be left. -/
theorem readPeriodSendsResponse : Obligations.ReadPeriodSendsResponse := by
  refine ⟨fun s n r f k hp hn hk => ?_, fun s n hp hn hh => ?_, fun s f he hh => ?_⟩
  · have follows : s.held.Follows r k f := hk
    have after := follows.afterRead n
    refine ⟨_, execReadPeriod_of_taken hp hn r, s.held.sent_length n r, HeldResponse.sent_first hn r,
      fun j hj => ?_, fun whole => ?_, fun cut begun => ?_, fun before => ?_, rfl⟩
    · refine (HeldResponse.sent_succ_get hj r).trans (congrArg some ?_)
      rw [follows.stream]
      split
      · next hk => rw [List.getD_append _ _ _ _ (by simpa using hk), List.getD_replicate _ hk]
      · next hk => rw [List.getD_append_right _ _ _ _ (by simpa using hk), List.length_replicate]
    · exact after.trans (if_pos whole)
    · exact after.trans ((if_neg (Nat.not_le.2 cut)).trans (if_pos begun))
    · exact after.trans ((if_neg (by omega)).trans (if_neg (Nat.not_le.2 before)))
  · obtain ⟨silent, kept⟩ := HeldResponse.afterRead_of_nothing hh n
    rw [execReadPeriod_of_taken hp hn, HeldResponse.sent_of_nothing silent, kept]
  · refine (State.whenTakingEvents_of he fun s => { s with held := s.held.built }).trans ?_
    rw [hh]
    rfl

end Sys2Proof.Machine
end

section
/-! SUPPORT. No block reads or writes the service link's own state: whatever the link holds, a request does and answers
the same (R159, R163, R165). -/

namespace Sys2Proof.Machine

/-! ## The blocks without the link -/

section Blocks

variable (s v : State)

@[simp] theorem State.withLinkOf_sysrst : (s.withLinkOf v).sysrst = s.sysrst := rfl
@[simp] theorem State.withLinkOf_entries : (s.withLinkOf v).entries = s.entries := rfl
@[simp] theorem State.withLinkOf_gates : (s.withLinkOf v).gates = s.gates := rfl
@[simp] theorem State.withLinkOf_store : (s.withLinkOf v).store = s.store := rfl
@[simp] theorem State.withLinkOf_stalls : (s.withLinkOf v).stalls = s.stalls := rfl
@[simp] theorem State.withLinkOf_waitsPending : (s.withLinkOf v).waitsPending = s.waitsPending := rfl
@[simp] theorem State.withLinkOf_waitsComplete : (s.withLinkOf v).waitsComplete = s.waitsComplete := rfl
@[simp] theorem State.withLinkOf_probe : (s.withLinkOf v).probe = s.probe := rfl
@[simp] theorem State.withLinkOf_heldHead (tag : Tag) : (s.withLinkOf v).heldHead tag = s.heldHead tag := rfl
@[simp] theorem State.withLinkOf_handleInUse (h : Byte) : (s.withLinkOf v).handleInUse h = s.handleInUse h := rfl
@[simp] theorem State.withLinkOf_nonFreeWaits : (s.withLinkOf v).nonFreeWaits = s.nonFreeWaits := rfl

end Blocks

/-- The operation neither reads nor writes the link's own state. -/
def State.LinkBlind (f : State → State) : Prop := ∀ s v : State, f (s.withLinkOf v) = (f s).withLinkOf v

theorem State.offerNext_blind : State.LinkBlind State.offerNext := fun s v => by
  cases h : s.offer with
  | none => rw [State.offerNext_of_none h, State.offerNext_of_none (s := s.withLinkOf v) h]; rfl
  | some tag => rw [State.offerNext_of_some h, State.offerNext_of_some (s := s.withLinkOf v) h]

theorem refillFuel_blind (n : Nat) : State.LinkBlind (refillFuel n) := by
  intro s v
  induction n generalizing s with
  | zero => rfl
  | succ n ih =>
    unfold refillFuel
    rw [State.withLinkOf_stalls, State.withLinkOf_store]
    split
    · rfl
    · next e rest _ =>
      split
      · exact ih ((({ s with stalls := rest } : State).deliverToStore e.event).unstall e.link)
      · rfl

/-- What is stored is offered last, where anything became deliverable (R20, R115). -/
theorem State.refill_offerNext_blind : State.LinkBlind fun s => s.refill.offerNext := fun s v =>
  (congrArg State.offerNext (refillFuel_blind s.stalls.length s v)).trans (State.offerNext_blind s.refill v)

theorem State.release_blind (tag : Tag) (g : GateState) : State.LinkBlind (·.release tag g) := fun s v => by
  change (s.withLinkOf v).release tag g = (s.release tag g).withLinkOf v
  unfold State.release
  rw [State.withLinkOf_gates]
  split <;> rfl

theorem considerAll_blind (l : List Tag) : State.LinkBlind (l.foldl State.consider ·) := by
  intro s v
  induction l generalizing s with
  | nil => rfl
  | cons tag l ih => exact ih (s.consider tag)

/-! ## Requests -/

/-- The request neither reads nor writes the link's own state. -/
def ActBlind (act : State → State × Reply) : Prop :=
  ∀ s v : State, act (s.withLinkOf v) = ((act s).1.withLinkOf v, (act s).2)

/-- A request of an operation that is blind to the link, with a reply that the blocks decide. -/
theorem State.LinkBlind.act {f : State → State} (h : State.LinkBlind f) (s v : State) (r : Reply) :
    (f (s.withLinkOf v), r) = ((f s).withLinkOf v, r) :=
  congrArg (·, r) (h s v)

theorem withTag_blind {act : Tag → State → State × Reply} (h : ∀ t, ActBlind (act t)) (tag : Byte) :
    ActBlind (withTag tag act) := fun s v => by
  unfold withTag
  split
  · exact h _ s v
  · rfl

theorem withEntry_blind {act : WatchIndex → State → State × Reply} (h : ∀ i, ActBlind (act i)) (index : Byte) :
    ActBlind (withEntry index act) := fun s v => by
  unfold withEntry
  split
  · exact h _ s v
  · rfl

theorem clearAct_blind : ActBlind clearAct := fun s v =>
  congrArg (·, _) ((congrArg State.offerNext (considerAll_blind allTags s.clearConfiguration v)).trans
    (State.offerNext_blind _ v))

theorem watchWriteAct_blind (raw : RawDefinition) (i : WatchIndex) : ActBlind (watchWriteAct raw i) := fun s v => by
  unfold watchWriteAct
  split
  · rfl
  · split <;> rfl

theorem watchStateAct_blind (parameter : Byte) (i : WatchIndex) : ActBlind (watchStateAct parameter i) := fun s v => by
  unfold watchStateAct
  rw [State.withLinkOf_entries]
  split
  · rfl
  · split <;> rfl

theorem tagResumeAct_blind (tag : Tag) : ActBlind (tagResumeAct tag) := fun s v => by
  unfold tagResumeAct
  rw [State.withLinkOf_gates]
  split
  · rfl
  · exact (State.release_blind tag .opened).act s v _

theorem tagStepAct_blind (n : BitVec 16) (tag : Tag) : ActBlind (tagStepAct n tag) := fun s v => by
  unfold tagStepAct
  split
  · rfl
  · exact (State.release_blind tag (.stepping n)).act s v _

theorem tagWithdrawAct_blind (after : Byte) (tag : Tag) : ActBlind (tagWithdrawAct after tag) := fun s v => by
  unfold tagWithdrawAct
  split
  · rfl
  · next g _ => exact State.offerNext_blind.act (s.withdraw tag g) v _

theorem tagLimitAct_blind (limit : BitVec 16) (policy : Byte) (tag : Tag) :
    ActBlind (tagLimitAct limit policy tag) := fun s v => by
  unfold tagLimitAct
  split <;> rfl

theorem heldPatchAct_blind (beat : Byte) (w : WriteBeat) (tag : Tag) :
    ActBlind (heldPatchAct beat w tag) := fun s v => by
  unfold heldPatchAct
  rw [State.withLinkOf_heldHead]
  repeat' split
  all_goals rfl

theorem heldAnswerAct_blind (values : List Beat) (tag : Tag) : ActBlind (heldAnswerAct values tag) := fun s v => by
  unfold heldAnswerAct
  rw [State.withLinkOf_heldHead]
  split
  · rfl
  · exact State.offerNext_blind.act (s.headAnswered tag (onHead (·.answeredWith .done values) s.records[tag])) v _

theorem eventTakeAct_blind : ActBlind eventTakeAct := fun s v => by
  unfold eventTakeAct
  rw [State.withLinkOf_store]
  split
  · rfl
  · next rest _ => exact State.refill_offerNext_blind.act { s with store := rest } v _

theorem eventDiscardAct_blind : ActBlind eventDiscardAct := fun s v => by
  have refilled : State.refill { s.withLinkOf v with store := [] }
      = (State.refill { s with store := [] }).withLinkOf v :=
    refillFuel_blind s.stalls.length { s with store := [] } v
  unfold eventDiscardAct
  rw [refilled]
  exact State.offerNext_blind.act (State.refill { s with store := [] }) v _

theorem State.postWait_blind (handle : Byte) (selector : Selector) :
    ActBlind (·.postWait handle selector) := fun s v => by
  change (s.withLinkOf v).postWait handle selector
    = ((s.postWait handle selector).1.withLinkOf v, (s.postWait handle selector).2)
  unfold State.postWait
  rw [State.withLinkOf_store, State.withLinkOf_stalls]
  split
  · next d rest _ =>
    exact State.refill_offerNext_blind.act
      { s with store := rest, waitsComplete := s.waitsComplete ++ [⟨handle, selector, d⟩] } v _
  · split
    · next e rest _ =>
      exact State.offerNext_blind.act
        ((({ s with stalls := rest } : State).deliverToWait e.event handle selector).unstall e.link) v _
    · rfl

theorem waitPostAct_blind (handle kinds tags : Byte) (watches : BitVec 16) :
    ActBlind (waitPostAct handle kinds tags watches) := fun s v => by
  unfold waitPostAct
  rw [State.withLinkOf_handleInUse, State.withLinkOf_nonFreeWaits]
  split
  · rfl
  · split
    · rfl
    · split
      · rfl
      · exact State.postWait_blind handle _ s v

theorem waitCancelAct_blind (handle : Byte) : ActBlind (waitCancelAct handle) := fun s v => by
  unfold waitCancelAct
  rw [State.withLinkOf_waitsPending, State.withLinkOf_waitsComplete]
  split
  · rfl
  · split <;> rfl

theorem waitTakeAct_blind : ActBlind waitTakeAct := fun s v => by
  unfold waitTakeAct
  rw [State.withLinkOf_waitsComplete]
  split <;> rfl

theorem attnSetAct_blind (conditions : Byte) : ActBlind (attnSetAct conditions) := fun s v => by
  unfold attnSetAct
  split <;> rfl

theorem probeStartAct_blind (q : ProbeRequest) : ActBlind (probeStartAct q) := fun s v => by
  unfold probeStartAct
  rw [State.withLinkOf_probe, State.withLinkOf_sysrst]
  repeat' split
  all_goals rfl

theorem probeResultAct_blind : ActBlind probeResultAct := fun s v => by
  unfold probeResultAct
  rw [State.withLinkOf_probe]
  split <;> rfl

theorem probeCancelAct_blind : ActBlind probeCancelAct := fun s v => by
  unfold probeCancelAct
  rw [State.withLinkOf_probe]
  split <;> rfl

/-! ## Commands -/

/-- A command that a request frame carries is the request of a block that is blind to the link (R163, R165). -/
theorem exec_request {i : Instr} (hi : i.requestCode ≠ none) :
    ∃ act, ActBlind act ∧ ∀ s : State, exec i s = s.request i.period act := by
  cases i with
  | acceptance | delivery | grant | answer | responseTimerExpiry | holdTimerExpiry | sysrstAssertion | sysrstRelease
  | powerOn | powerOnBegin | readPeriod | responseReady | badFrame | badRequest => exact absurd rfl hi
  | ident => exact ⟨fun s => (s, .ok Config.identPayload), fun _ _ => rfl, fun _ => rfl⟩
  | clear => exact ⟨_, clearAct_blind, fun _ => rfl⟩
  | setResponseLimit limit => exact ⟨setResponseLimitAct limit, fun _ _ => rfl, fun _ => rfl⟩
  | watchWrite index d => exact ⟨_, withEntry_blind (watchWriteAct_blind d) index, fun _ => rfl⟩
  | watchRead index => exact ⟨_, withEntry_blind (act := watchReadAct) (fun _ _ _ => rfl) index, fun _ => rfl⟩
  | disable index => exact ⟨_, withEntry_blind (watchStateAct_blind 0x00) index, fun _ => rfl⟩
  | enableLive index => exact ⟨_, withEntry_blind (watchStateAct_blind 0x01) index, fun _ => rfl⟩
  | enableDormant index => exact ⟨_, withEntry_blind (watchStateAct_blind 0x02) index, fun _ => rfl⟩
  | rearm index => exact ⟨_, withEntry_blind (watchStateAct_blind 0x03) index, fun _ => rfl⟩
  | watchState index parameter => exact ⟨_, withEntry_blind (watchStateAct_blind parameter) index, fun _ => rfl⟩
  | tagRead tag => exact ⟨_, withTag_blind (act := tagReadAct) (fun _ _ _ => rfl) tag, fun _ => rfl⟩
  | tagFreeze tag => exact ⟨_, withTag_blind (act := tagFreezeAct) (fun _ _ _ => rfl) tag, fun _ => rfl⟩
  | tagResume tag => exact ⟨_, withTag_blind tagResumeAct_blind tag, fun _ => rfl⟩
  | tagStep tag n => exact ⟨_, withTag_blind (tagStepAct_blind n) tag, fun _ => rfl⟩
  | tagWithdraw tag after => exact ⟨_, withTag_blind (tagWithdrawAct_blind after) tag, fun _ => rfl⟩
  | tagLimit tag limit policy => exact ⟨_, withTag_blind (tagLimitAct_blind limit policy) tag, fun _ => rfl⟩
  | heldList tag => exact ⟨_, withTag_blind (act := heldListAct) (fun _ _ _ => rfl) tag, fun _ => rfl⟩
  | heldPatch tag beat data enables =>
    exact ⟨_, withTag_blind (heldPatchAct_blind beat ⟨data, enables⟩) tag, fun _ => rfl⟩
  | heldAnswer tag values => exact ⟨_, withTag_blind (heldAnswerAct_blind values) tag, fun _ => rfl⟩
  | eventTake => exact ⟨_, eventTakeAct_blind, fun _ => rfl⟩
  | eventStatus => exact ⟨eventStatusAct, fun _ _ => rfl, fun _ => rfl⟩
  | eventDiscard => exact ⟨_, eventDiscardAct_blind, fun _ => rfl⟩
  | waitPost handle kinds tags watches => exact ⟨_, waitPostAct_blind handle kinds tags watches, fun _ => rfl⟩
  | waitCancel handle => exact ⟨_, waitCancelAct_blind handle, fun _ => rfl⟩
  | waitTake => exact ⟨_, waitTakeAct_blind, fun _ => rfl⟩
  | attnSet conditions => exact ⟨_, attnSetAct_blind conditions, fun _ => rfl⟩
  | probeRead address beats => exact ⟨_, probeStartAct_blind _, fun _ => rfl⟩
  | probeWrite address beats => exact ⟨_, probeStartAct_blind _, fun _ => rfl⟩
  | probeResult => exact ⟨_, probeResultAct_blind, fun _ => rfl⟩
  | probeCancel => exact ⟨_, probeCancelAct_blind, fun _ => rfl⟩

/-- The link takes a request whatever it held before (R159, R163, R165). -/
theorem State.request_withLinkOf {s : State} (h : s.takesPeriods = true) {act : State → State × Reply}
    (blind : ActBlind act) (bytes : List Byte) (v : State) :
    (s.withLinkOf v).request bytes act = s.request bytes act := by
  rw [State.request_of_taken h, State.request_of_taken (s := s.withLinkOf v) h, blind]
  rfl

end Sys2Proof.Machine
end

section
/-! SUPPORT. Chip-select periods by the command they carry, read and taken (R158, R161 to R163), whatever response the
link holds. -/

namespace Sys2Proof.Machine

/-- A frame with a request code is taken as the request that its payload is read as (R162, R163). -/
theorem decodePeriod_request {code : Byte} {payload : List Byte} {i : Instr} (hc : code ≠ 0xFF)
    (hp : payload.length ≤ 160) (h : decodeRequest code payload = some i) :
    decodePeriod (frame code payload) = some i := by
  have opened := openFrame_frame code hp
  rw [frame, List.cons_append] at opened ⊢
  simp only [decodePeriod, if_neg hc, opened, h]

theorem period_of_code {i : Instr} {code : Byte} (h : i.requestCode = some code) :
    i.period = frame code i.payload := by
  cases i <;> cases h <;> rfl

/-- The bytes of a request act as the request (R163). -/
theorem runPeriod_of_request {bytes : List Byte} {i : Instr} (h : decodePeriod bytes = some i)
    (hi : i.requestCode ≠ none) (s : State) : runPeriod bytes s = exec i s := by
  rw [runPeriod, h]
  cases i with
  | acceptance | delivery | grant | answer | responseTimerExpiry | holdTimerExpiry | sysrstAssertion | sysrstRelease
  | powerOn | powerOnBegin | readPeriod | responseReady | badFrame | badRequest => exact absurd rfl hi
  | _ => rfl

/-- A period whose first byte is 0FFh is a read period (R158). -/
theorem decodePeriod_read (rest : List Byte) :
    decodePeriod (0xFF :: rest) = some (.readPeriod (rest.length + 1) none) := by
  simp [decodePeriod]

theorem decodePeriod_badRequest_of {bytes : List Byte} (hb : bytes.head? ≠ some 0xFF)
    (h : refusedByLink bytes = true) : decodePeriod bytes = some (.badRequest bytes) := by
  unfold refusedByLink at h
  split at h
  · cases h
  · next code payload opened =>
    obtain ⟨rfl, fits⟩ := frame_of_openFrame opened
    have hc : code ≠ 0xFF := fun hc => hb (congrArg some hc)
    exact decodePeriod_badRequest hc fits (decodeRequest_of_forbidden (by simpa using h))

/-- Settles O50: a request by its frame, a refused period and a read period by their bytes. -/
theorem periodCarriesItsCommand : Obligations.PeriodCarriesItsCommand := by
  rintro i hw (hc | ⟨b, rfl | rfl⟩ | ⟨n, rfl⟩)
  · obtain ⟨code, hcode⟩ := Option.ne_none_iff_exists'.1 hc
    have read : decodePeriod i.period = some i := by
      rw [period_of_code hcode]
      exact decodePeriod_request (requestCode_ne hcode) (payload_length_le hw) (decodeRequest_payload hw hcode)
    exact ⟨read, runPeriod_of_request read hc⟩
  · match b, hw with
    | first :: rest, hw =>
      obtain ⟨hb, closed⟩ : first ≠ 0xFF ∧ openFrame (first :: rest) = none := by
        simpa [Instr.wellFormed] using hw
      exact ⟨decodePeriod_badFrame hb closed, fun _ => rfl⟩
  · obtain ⟨hb, refused⟩ : b.head? ≠ some 0xFF ∧ refusedByLink b = true := by
      simpa [Instr.wellFormed] using hw
    exact ⟨decodePeriod_badRequest_of hb refused, fun _ => rfl⟩
  · match n, hw with
    | n + 1, _ =>
      have read : decodePeriod (Instr.period (.readPeriod (n + 1) none)) = some (.readPeriod (n + 1) none) := by
        refine (decodePeriod_read (List.replicate n 0xFF)).trans ?_
        rw [List.length_replicate]
      exact ⟨read, fun s => by rw [runPeriod, read]; rfl⟩

/-- A period that begins with another byte than 0FFh is refused by the link, or the request whose frame it is (R158,
R161, R162). -/
theorem decodePeriod_cases {first : Byte} {rest : List Byte} (h : first ≠ 0xFF) :
    decodePeriod (first :: rest) = some (.badFrame (first :: rest))
      ∨ decodePeriod (first :: rest) = some (.badRequest (first :: rest))
      ∨ ∃ i, decodePeriod (first :: rest) = some i ∧ i.requestCode ≠ none ∧ i.period = first :: rest := by
  simp only [decodePeriod, if_neg h]
  split
  · exact .inl rfl
  · next code payload opened =>
    split
    · exact .inr (.inl rfl)
    · next i read =>
      obtain ⟨hc, hp⟩ := carries_of_decodeRequest read
      refine .inr (.inr ⟨i, rfl, by rw [hc]; nofun, ?_⟩)
      rw [period_of_code hc, hp, ← (frame_of_openFrame opened).1]

/-- What a request period comes to does not depend on what the link held, and LDO sent 0FFh throughout (R159). -/
theorem runPeriod_request {s : State} (hp : s.takesPeriods = true) {first : Byte} {rest : List Byte}
    (h : first ≠ 0xFF) : (∀ v : State, runPeriod (first :: rest) (s.withLinkOf v) = runPeriod (first :: rest) s)
      ∧ ∃ t, runPeriod (first :: rest) s = .next t ∧ t.ldo = List.replicate (rest.length + 1) 0xFF := by
  have refusal (status : Status) : (∀ v : State, (s.withLinkOf v).refusePeriod (first :: rest) status
      = s.refusePeriod (first :: rest) status)
      ∧ ∃ t, s.refusePeriod (first :: rest) status = .next t ∧ t.ldo = List.replicate (rest.length + 1) 0xFF :=
    ⟨fun v => by
        rw [State.refusePeriod_of_taken hp, State.refusePeriod_of_taken (s := s.withLinkOf v) hp]
        rfl,
      _, State.refusePeriod_of_taken hp _ _, rfl⟩
  rcases decodePeriod_cases (rest := rest) h with read | read | ⟨i, read, hi, hb⟩
  · simp only [runPeriod, read]
    exact refusal .badFrame
  · simp only [runPeriod, read]
    exact refusal .badRequest
  · obtain ⟨act, blind, runs⟩ := exec_request hi
    simp only [runPeriod_of_request read hi, runs, hb]
    refine ⟨fun v => State.request_withLinkOf hp blind _ v, _, State.request_of_taken hp _ _, rfl⟩

end Sys2Proof.Machine
end

section
/-! SUPPORT. Every command ends in a next state with the queues and levels as they were, and waits or is lost where the
part takes no event or no period (R163, R172, R177, R178; log entry 20). -/

namespace Sys2Proof.Machine

/-! ## Steps -/

/-- Settles O1: the queue is not empty, so its front is taken. -/
theorem stepTakesFrontCommand : Obligations.StepTakesFrontCommand := by
  intro s c rest h
  rw [step, h]

/-! ## Queues and levels -/

/-- The queues of commands and pin changes, which stand for what happens outside the part. -/
def State.queues (s : State) : List Instr × List PinChange := (s.pending, s.pins)

/-- No primitive change of a block touches the queues. -/
theorem State.Course.queues {s₀ s : State} {due : Bool} (c : s₀.Course due s) : s.queues = s₀.queues := by
  induction c with
  | start => rfl
  | alike c h ih => rw [h]; exact ih
  | gates c h ih => rw [h.frame]; exact ih
  | lossy | lossless => rw [State.place_frame]; assumption
  | storeTaken c l h ih => rw [State.refill_frame]; exact ih
  | @recordIssued _ s c k tag hk ih =>
    rcases s.grantRecord_cases k tag with h | ⟨r, -, request, h⟩ <;> rw [h] <;> exact ih
  | @probeIssued _ s c k hk ih =>
    rcases s.grantProbe_cases k with h | ⟨q, hq, request, h⟩ <;> rw [h] <;> exact ih
  | probeAnswered c hk hv hc ih => rw [State.finishProbe_frame]; exact ih
  | asserted c holdboot ih => rw [State.finishProbe_frame]; exact ih
  | entries | stallTaken | waitPended | waitCompleted | waitsFreed | added | delivered | recordAnswered | slotLeft
  | probeQueued | probeIdled | probeWithdrawn | ticked | cleared | released => assumption

theorem State.Leads.queues {s t : State} (h : s.Leads t) : t.queues = s.queues := by
  rcases h with ⟨c, h⟩ | @⟨_, u, c, h⟩ <;> rw [h]
  · exact c.queues
  · rw [u.offerNext_frame]; exact c.queues

/-- The queues, and the levels of CLK and LCS_N. -/
def State.outside (s : State) : (List Instr × List PinChange) × Bool × Bool := (s.queues, s.clkRunning, s.lcsLow)

theorem State.Leads.outside {s t : State} (h : s.Leads t) : t.outside = s.outside := by
  have link := h.link
  simp only [State.link, Prod.mk.injEq] at link
  obtain ⟨-, clk, lcs, -⟩ := link
  rw [State.outside, h.queues, clk, lcs]
  rfl

/-- Whatever a command does, it ends in a next state with queues and levels as they were. -/
theorem State.Runs.ends_outside {s : State} {r : Result} (h : s.Runs r) :
    ∃ t, r = .next t ∧ t.outside = s.outside := by
  cases h with
  | idle => exact ⟨s, rfl, rfl⟩
  | occurs h => exact ⟨_, rfl, h.outside⟩
  | requests _ h => exact ⟨_, rfl, h.leads.outside⟩
  | powersOn _ _ clk => exact ⟨_, rfl, by rw [State.outside, State.outside, clk]; rfl⟩
  | refuses | reads | builds | losesPower => exact ⟨_, rfl, rfl⟩

/-! ## Commands that wait or are lost -/

theorem State.request_of_not {s : State} (h : s.takesPeriods = false) (bytes : List Byte)
    (act : State → State × Reply) : s.request bytes act = .next s :=
  State.whenTakingPeriods_of_not h _

/-- Where the link takes no period, the bytes of one change nothing (R172, R177, R178). -/
theorem runPeriod_of_not_taken {s : State} (h : s.takesPeriods = false) (bytes : List Byte) :
    runPeriod bytes s = .next s := by
  match bytes with
  | [] => rfl
  | b :: rest =>
    by_cases hb : b = 0xFF
    · subst hb
      rw [runPeriod, decodePeriod_read]
      exact State.whenTakingPeriods_of_not h (State.readPeriod (rest.length + 1) none)
    · rcases decodePeriod_cases hb with read | read | ⟨i, read, hi, -⟩
      · rw [runPeriod, read]
        exact State.whenTakingPeriods_of_not h _
      · rw [runPeriod, read]
        exact State.whenTakingPeriods_of_not h _
      · obtain ⟨act, -, runs⟩ := exec_request hi
        rw [runPeriod_of_request read hi, runs]
        exact State.request_of_not h _ act

/-- A command is a chip-select period of the link: a request, a refused frame, or a read period. -/
def LinkCommand (i : Instr) : Prop :=
  i.requestCode ≠ none ∨ (∃ b, i = .badFrame b ∨ i = .badRequest b) ∨ ∃ n r, i = .readPeriod n r

/-- Where the link takes no period, no command that is one changes anything (R172, R177, R178). -/
theorem exec_of_not_taken {s : State} (h : s.takesPeriods = false) {i : Instr} (hi : LinkCommand i) :
    exec i s = .next s := by
  rcases hi with hc | ⟨b, rfl | rfl⟩ | ⟨n, r, rfl⟩
  · obtain ⟨act, -, runs⟩ := exec_request hc
    rw [runs]
    exact State.request_of_not h _ act
  · exact runPeriod_of_not_taken h b
  · exact runPeriod_of_not_taken h b
  · exact State.whenTakingPeriods_of_not h _

/-- During power-on and while CLK is stopped no command but those of power-on changes anything (R177, R178). -/
theorem exec_of_no_events {s : State} (h : s.takesEvents = false) {i : Instr} (hb : i ≠ .powerOnBegin)
    (hp : ∀ holdboot low : Bool, i ≠ .powerOn holdboot low) : exec i s = .next s := by
  have hn := State.takesPeriods_of_not h
  cases i with
  | powerOnBegin => exact absurd rfl hb
  | powerOn holdboot low => exact absurd rfl (hp holdboot low)
  | acceptance | delivery | grant | answer | responseTimerExpiry | holdTimerExpiry | sysrstAssertion =>
    exact State.whenTakingEvents_of_not h _
  | sysrstRelease => exact State.whenTakingEvents_of_not h fun s => { s with sysrst := false }
  | responseReady => exact State.whenTakingEvents_of_not h fun s => { s with held := s.held.built }
  | badFrame b => exact exec_of_not_taken hn (.inr (.inl ⟨b, .inl rfl⟩))
  | badRequest b => exact exec_of_not_taken hn (.inr (.inl ⟨b, .inr rfl⟩))
  | readPeriod n r => exact exec_of_not_taken hn (.inr (.inr ⟨n, r, rfl⟩))
  | _ => exact exec_of_not_taken hn (.inl nofun)

/-- Power-on does not complete while CLK is stopped (R177). -/
theorem execPowerOn_of_stopped {s : State} (h : s.clkRunning = false) (holdboot low : Bool) :
    exec (.powerOn holdboot low) s = .next s := by
  change execPowerOn holdboot low s = _
  simp [execPowerOn, h]

/-! ## CLK -/

/-- Where no period ends with it, CLK runs again with all else as it was (R178). -/
theorem State.takePin_clkRun_level {s : State} (h : s.clkRunning = true ∨ s.period = none ∨ s.lcsLow = true) :
    s.takePin .clkRun = .next { s with clkRunning := true } := by
  rcases h with h | h | h
  · simp [State.takePin, h]
  · have ends : State.periodEnds { s with clkRunning := true } = .next { s with clkRunning := true } :=
      State.periodEnds_of_none h
    simp only [State.takePin, ends, ite_self]
  · simp [State.takePin, h]

/-- CLK that runs again with LCS_N high ends the period as a rising edge of LCS_N does (R178; log entry 20). -/
theorem State.takePin_clkRun_risen {s : State} (hp : s.powered = true) (hc : s.clkRunning = false)
    (hl : s.lcsLow = false) :
    s.takePin .clkRun = State.takePin .lcsRise { s with clkRunning := true, lcsLow := true } := by
  simp [State.takePin, State.takesEvents, hp, hc, ← hl]

/-- Settles O3: commands by what runs and what waits, then CLK. -/
theorem everyCommandIsTaken : Obligations.EveryCommandIsTaken := by
  refine ⟨fun i s => ?_, fun s => ⟨rfl, State.takePin_clkRun_level, State.takePin_clkRun_risen⟩⟩
  obtain ⟨t, ran, outside⟩ := (exec_runs i s).ends_outside
  simp only [State.outside, State.queues, Prod.mk.injEq] at outside
  obtain ⟨⟨pending, pins⟩, clk, lcs⟩ := outside
  have unchanged : exec i s = .next s → t = s := fun h => Host.Outcome.next.inj (ran.symm.trans h)
  refine ⟨t, ran, pending, pins, clk, lcs, fun h hb hp => unchanged (exec_of_no_events ?_ hb hp),
    fun h holdboot low hi => unchanged ?_, fun h hi => unchanged (exec_of_not_taken ?_ hi)⟩
  · rcases h with h | h <;> simp [State.takesEvents, h]
  · rw [hi]
    exact execPowerOn_of_stopped h holdboot low
  · simp [State.takesPeriods, h]

end Sys2Proof.Machine
end

section
/-! SUPPORT. Chip-select periods bit by bit (R157 to R159, R166, R167). -/

namespace Sys2Proof.Machine

/-! ## The response byte by byte -/

/-- A period in progress behind the complete bytes `bytes` and, of the byte in progress, `bits`. -/
def LinkPeriod.behind (bytes : List Byte) (out : Byte × Option Nat) (bits : List Bool) : LinkPeriod :=
  ⟨bits, bytes, out.1, out.2, bytes.length, bits.length⟩

/-- The outgoing byte that begins behind `n + 1` complete bytes of a read period, with its place in the response frame:
the next one of a response that is still held, and 0FFh that belongs to none in every other case (R166). -/
def HeldResponse.readOut (held : HeldResponse) (n : Nat) : Byte × Option Nat :=
  match held.afterRead (n + 1) Option.none with
  | .ready f => (f.getD n 0xFF, some n)
  | _ => (0xFF, Option.none)

/-- A READY response leaves the link with its last byte (R166, R167). -/
theorem HeldResponse.afterRead_ready (f : List Byte) (n : Nat) :
    (HeldResponse.ready f).afterRead (n + 1) Option.none = if f.length ≤ n then .none else .ready f := by
  have left : 1 + f.length ≤ n + 1 ↔ f.length ≤ n := by omega
  simp only [HeldResponse.afterRead, left]

theorem HeldResponse.readOut_ready (f : List Byte) (n : Nat) : (HeldResponse.ready f).readOut n =
    if f.length ≤ n then (0xFF, Option.none) else (f.getD n 0xFF, some n) := by
  rw [HeldResponse.readOut, HeldResponse.afterRead_ready]
  by_cases h : f.length ≤ n
  · simp only [if_pos h]
  · simp only [if_neg h]

theorem HeldResponse.readOut_byte (held : HeldResponse) (n : Nat) :
    (held.readOut n).1 = (held.stream Option.none).getD n 0xFF := by
  cases held with
  | none => rfl
  | preparing f => rfl
  | ready f =>
    rw [HeldResponse.readOut_ready]
    split
    · next h => exact (List.getD_eq_default f 0xFF h).symm
    · rfl

theorem HeldResponse.sent_eq (held : HeldResponse) (n : Nat) (r : Option Nat) : held.sent (n + 1) r =
    0xFF :: (List.range n).map fun j => (held.stream r).getD j 0xFF := by
  apply List.ext_getElem?
  rintro (_ | j)
  · exact HeldResponse.sent_first (Nat.le_add_left 1 n) r
  · by_cases hj : j < n
    · rw [HeldResponse.sent_succ_get (Nat.succ_lt_succ hj)]
      simp [hj]
    · rw [List.getElem?_eq_none (by simp; omega), List.getElem?_eq_none (by simp; omega)]

/-- One complete byte more sends one byte more (R166). -/
theorem HeldResponse.sent_concat (held : HeldResponse) (n : Nat) :
    held.sent (n + 1 + 1) Option.none = held.sent (n + 1) Option.none ++ [(held.readOut n).1] := by
  rw [held.sent_eq (n + 1), held.sent_eq n, held.readOut_byte, List.range_succ, List.map_append]
  rfl

/-- The held response behind one complete byte more (R166, R167). -/
theorem HeldResponse.afterRead_succ (held : HeldResponse) (bytes : List Byte) (n : Nat)
    (bits : List Bool) : (LinkPeriod.behind bytes (held.readOut n) bits).heldAfterByte
      (held.afterRead (n + 1) Option.none) = held.afterRead (n + 1 + 1) Option.none := by
  cases held with
  | none => rfl
  | preparing f => rfl
  | ready f =>
    rw [HeldResponse.readOut_ready, HeldResponse.afterRead_ready, HeldResponse.afterRead_ready]
    by_cases sent : f.length ≤ n
    · rw [if_pos sent, if_pos sent, if_pos (by omega)]
      rfl
    · rw [if_neg sent, if_neg sent]
      simp [LinkPeriod.heldAfterByte, LinkPeriod.behind]

/-- The response begins to go out behind the first byte of a read period (R158, R166). -/
theorem LinkPeriod.nextOut_first (held : HeldResponse) {p : LinkPeriod} (hr : p.isRead = true)
    (hp : p.place = none) : p.nextOut (held.afterRead 1 none) = held.readOut 0 := by
  unfold LinkPeriod.nextOut HeldResponse.readOut
  rw [hr, hp]
  cases held.afterRead 1 none <;> rfl

/-- It goes on behind each further byte (R166). -/
theorem LinkPeriod.nextOut_next (held : HeldResponse) {p : LinkPeriod} {n : Nat} (hr : p.isRead = true)
    (hp : p.place = (held.readOut n).2) : p.nextOut (held.afterRead (n + 1 + 1) none) = held.readOut (n + 1) := by
  unfold LinkPeriod.nextOut
  rw [hr, hp]
  cases held with
  | none => rfl
  | preparing f => rfl
  | ready f =>
    rw [HeldResponse.readOut_ready, HeldResponse.readOut_ready, HeldResponse.afterRead_ready]
    by_cases sent : f.length ≤ n + 1
    · rw [if_pos sent, if_pos sent]
    · rw [if_neg sent, if_neg sent, if_neg (by omega)]

theorem LinkPeriod.isRead_request {p : LinkPeriod} {b : Byte} {rest : List Byte} (h : p.received = b :: rest)
    (hb : b ≠ 0xFF) : p.isRead = false := by
  rw [LinkPeriod.isRead, h, beq_eq_false_iff_ne]
  exact fun hf => hb (Option.some.inj hf)

/-- Outside a read period 0FFh goes out (R159). -/
theorem LinkPeriod.nextOut_request {p : LinkPeriod} (hr : p.isRead = false) (held : HeldResponse) :
    p.nextOut held = (0xFF, none) := by
  unfold LinkPeriod.nextOut
  rw [hr]

/-! ## What a period has done by its complete bytes -/

/-- The state that the complete bytes of a period in progress leave: nothing yet, what a read period of them does, or a
request period that has discarded the held response (R158, R159, R166). -/
def State.received (s : State) : List Byte → State
  | [] => s
  | b :: rest => if b = 0xFF then s.readPeriod (rest.length + 1) none else s.endPeriod (b :: rest) .none

theorem State.received_read (s : State) (rest : List Byte) : s.received (0xFF :: rest) = { s with
    ldo := s.held.sent (rest.length + 1) none, held := s.held.afterRead (rest.length + 1) none } := rfl

theorem State.received_request (s : State) {b : Byte} (h : b ≠ 0xFF) (rest : List Byte) :
    s.received (b :: rest) = s.endPeriod (b :: rest) .none := if_neg h

/-- A period in progress touches the link alone (R158, R159). -/
theorem State.received_frame (s : State) (bytes : List Byte) : s.received bytes = s.withLinkOf (s.received bytes) := by
  unfold State.received
  split
  · rfl
  · split <;> rfl

/-- The outgoing byte that begins behind the complete bytes, with its place in the response frame (R158, R159, R166). -/
def State.outgoing (s : State) : List Byte → Byte × Option Nat
  | [] => (0xFF, none)
  | b :: rest => if b = 0xFF then s.held.readOut rest.length else (0xFF, none)

theorem State.outgoing_read (s : State) (rest : List Byte) :
    s.outgoing (0xFF :: rest) = s.held.readOut rest.length := rfl

/-- The state in a period that began in `s`, behind the complete bytes `bytes` and the bits `bits`. -/
def State.inPeriod (s : State) (bytes : List Byte) (bits : List Bool) : State :=
  { s.received bytes with lcsLow := true, period := some (.behind bytes (s.outgoing bytes) bits) }

/-- The bytes that LDO has sent in a period behind the complete bytes `bytes` (R158, R159, R166). -/
def State.sentIn (s : State) : List Byte → List Byte
  | [] => []
  | b :: rest => if b = 0xFF then s.held.sent (rest.length + 1) none else List.replicate (rest.length + 1) 0xFF

theorem State.sentIn_read (s : State) (rest : List Byte) :
    s.sentIn (0xFF :: rest) = s.held.sent (rest.length + 1) none := rfl

theorem State.sentIn_request (s : State) {b : Byte} (h : b ≠ 0xFF) (rest : List Byte) :
    s.sentIn (b :: rest) = List.replicate (rest.length + 1) 0xFF := if_neg h

/-- The outgoing bytes of a period are the bytes it sends. -/
theorem State.sentIn_concat (s : State) (bytes : List Byte) (b : Byte) :
    s.sentIn (bytes ++ [b]) = s.sentIn bytes ++ [(s.outgoing bytes).1] := by
  match bytes with
  | [] =>
    by_cases hb : b = 0xFF
    · subst hb
      exact s.held.sent_eq 0 none
    · exact s.sentIn_request hb []
  | c :: rest =>
    have len : (rest ++ [b]).length = rest.length + 1 := List.length_append
    by_cases hc : c = 0xFF
    · subst hc
      rw [List.cons_append, State.sentIn_read, len, s.held.sent_concat]
      rfl
    · rw [List.cons_append, s.sentIn_request hc, s.sentIn_request hc, len, State.outgoing, if_neg hc]
      exact List.replicate_succ'

/-- The first byte of a read period finds the held response as it stands (R158). -/
theorem HeldResponse.afterRead_one {held : HeldResponse} (h : held ≠ .ready []) :
    held.afterRead 1 Option.none = held := by
  cases held with
  | none => rfl
  | preparing f => rfl
  | ready f =>
    rw [HeldResponse.afterRead_ready, if_neg]
    intro hf
    exact h (congrArg _ (List.eq_nil_of_length_eq_zero (Nat.le_zero.1 hf)))

/-- A further byte of a request period is kept and counted (R159). -/
theorem State.byteComplete_request {s : State} {p : LinkPeriod} (hn : p.received ≠ []) (hr : p.isRead = false)
    (b : Byte) : s.byteComplete p b = { s with
      period := some { p with bits := [], received := p.received ++ [b] }
      ldo := s.ldo ++ [p.sending]
      requestBuffer := (s.requestBuffer ++ [b]).take Config.requestBufferSize
      requestCount := s.requestCount + 1 } := by
  unfold State.byteComplete
  split
  · contradiction
  · rw [hr]
    rfl

theorem take_concat_take {α : Type} (n : Nat) (l : List α) (x : α) : (l.take n ++ [x]).take n = (l ++ [x]).take n := by
  rw [List.take_append, List.take_append, List.take_take, Nat.min_self, List.length_take]
  congr 2
  omega

/-- Behind its eighth bit the period has its byte, and the link has done what the byte asks for (R158, R159, R166). -/
theorem State.byteComplete_inPeriod {s : State} (hs : s.held ≠ .ready []) (bytes : List Byte) (b : Byte)
    (bits : List Bool) : (s.inPeriod bytes bits).byteComplete (.behind bytes (s.outgoing bytes) bits) b =
      { s.received (bytes ++ [b]) with
        lcsLow := true
        period := some { LinkPeriod.behind bytes (s.outgoing bytes) bits with
          bits := [], received := bytes ++ [b] } } := by
  match bytes with
  | [] =>
    by_cases hb : b = 0xFF
    · subst hb
      rw [List.nil_append, s.received_read [], List.length_nil, HeldResponse.afterRead_one hs, s.held.sent_eq 0]
      rfl
    · rw [List.nil_append, s.received_request hb]
      exact if_neg hb
  | c :: rest =>
    have len : (rest ++ [b]).length = rest.length + 1 := List.length_append
    by_cases hc : c = 0xFF
    · subst hc
      have left := s.held.afterRead_succ (0xFF :: rest) rest.length bits
      rw [List.cons_append, s.received_read, len, s.held.sent_concat, ← left]
      rfl
    · have count : (c :: (rest ++ [b])).length = (c :: rest).length + 1 := congrArg (· + 1) len
      have buffer := take_concat_take Config.requestBufferSize (c :: rest) b
      rw [List.cons_append] at buffer
      rw [List.cons_append, s.received_request hc, State.endPeriod, count, List.replicate_succ', ← buffer,
        State.byteComplete_request (List.cons_ne_nil c rest) (LinkPeriod.isRead_request rfl hc), State.inPeriod,
        s.received_request hc, State.outgoing, if_neg hc]
      rfl

/-- The outgoing byte that begins at the falling edge behind it (R158, R159, R166). -/
theorem State.nextOut_outgoing {s : State} (bytes : List Byte) (b : Byte) (bits : List Bool) :
    LinkPeriod.nextOut { LinkPeriod.behind bytes (s.outgoing bytes) bits with bits := [], received := bytes ++ [b] }
      (s.received (bytes ++ [b])).held = s.outgoing (bytes ++ [b]) := by
  match bytes with
  | [] =>
    by_cases hb : b = 0xFF
    · subst hb
      exact LinkPeriod.nextOut_first s.held rfl rfl
    · rw [LinkPeriod.nextOut_request (LinkPeriod.isRead_request rfl hb)]
      exact (if_neg hb).symm
  | c :: rest =>
    by_cases hc : c = 0xFF
    · subst hc
      have len : (rest ++ [b]).length = rest.length + 1 := List.length_append
      have out := s.outgoing_read (rest ++ [b])
      rw [len] at out
      rw [List.cons_append, s.received_read, len, out]
      refine LinkPeriod.nextOut_next s.held ?_ ?_ <;> rfl
    · rw [LinkPeriod.nextOut_request (LinkPeriod.isRead_request rfl hc)]
      exact (if_neg hc).symm

end Sys2Proof.Machine
end

section
/-! SUPPORT. A chip-select period on its pins comes to what its complete bytes come to (O60). -/

namespace Sys2Proof.Machine

/-! ## One bit -/

@[simp] theorem bitPins_append (a b : List Bool) : bitPins (a ++ b) = bitPins a ++ bitPins b := by
  simp [bitPins]

theorem bitPins_cons (x : Bool) (l : List Bool) : bitPins (x :: l) = [.lckRise x, .lckFall] ++ bitPins l := rfl

theorem State.takesEvents_inPeriod {s : State} (h : s.takesPeriods = true) (bytes : List Byte) (bits : List Bool) :
    (s.inPeriod bytes bits).takesEvents = true := by
  rw [State.inPeriod, s.received_frame]
  exact (State.takesPeriods_iff.1 h).1

/-- Where the part takes events and LCS_N is low both edges of LCK act (R157). -/
theorem State.takePins_bit {u : State} (he : u.takesEvents = true) (hl : u.lcsLow = true) {x : Bool}
    (he' : (u.lckRise x).takesEvents = true) (hl' : (u.lckRise x).lcsLow = true) :
    u.takePins [.lckRise x, .lckFall] = .next { u.lckRise x with
      period := (u.lckRise x).period.map (·.lckFall (u.lckRise x).held) } := by
  simp [State.takePins, State.takePin, he, hl, he', hl']

/-- A rising edge of LCS_N ends a period where the part takes events (R157). -/
theorem State.takePin_lcsRise {u : State} (he : u.takesEvents = true) (hl : u.lcsLow = true) :
    u.takePin .lcsRise = State.periodEnds { u with lcsLow := false } := by
  simp [State.takePin, he, hl]

/-- What the host samples at one pin change: LDO at a rising edge of LCK (R157). -/
def State.sampledAt (u : State) : PinChange → List (Option Bool)
  | .lckRise _ => [u.ldoPin]
  | _ => []

theorem State.ldoSamples_cons {u v : State} {change : PinChange} (h : u.takePin change = .next v)
    (rest : List PinChange) : State.ldoSamples (change :: rest) u = u.sampledAt change ++ State.ldoSamples rest v := by
  cases change <;> simp only [State.ldoSamples, h] <;> rfl

/-- Samples over two lists of pin changes are those of the one and then those of the other. -/
theorem State.ldoSamples_append {u v : State} {a : List PinChange} (h : u.takePins a = .next v) (b : List PinChange) :
    State.ldoSamples (a ++ b) u = State.ldoSamples a u ++ State.ldoSamples b v := by
  induction a generalizing u with
  | nil =>
    cases h
    rfl
  | cons change a ih =>
    rw [State.takePins] at h
    split at h
    · next w taken =>
      rw [List.cons_append, State.ldoSamples_cons taken, State.ldoSamples_cons taken, ih h, List.append_assoc]
    · cases h
    · cases h

theorem State.ldoSamples_lcsRise (u : State) : State.ldoSamples [.lcsRise] u = [] := by
  simp only [State.ldoSamples]
  split <;> rfl

theorem State.ldoSamples_bit (u : State) (x : Bool) : State.ldoSamples [.lckRise x, .lckFall] u = [u.ldoPin] := rfl

section InPeriod

variable {s : State} (hp : s.takesPeriods = true)

include hp

/-- A bit short of a byte (R157). -/
theorem State.takePins_short_bit (bytes : List Byte) {bits : List Bool} (h : bits.length < 7) (x : Bool) :
    (s.inPeriod bytes bits).takePins [.lckRise x, .lckFall] = .next (s.inPeriod bytes (bits ++ [x])) := by
  have he := State.takesEvents_inPeriod hp bytes bits
  have rise : (s.inPeriod bytes bits).lckRise x = { s.inPeriod bytes bits with
      period := some { LinkPeriod.behind bytes (s.outgoing bytes) bits with bits := bits ++ [x] } } :=
    State.lckRise_bit (s := s.inPeriod bytes bits) rfl h x
  rw [State.takePins_bit he rfl (by rw [rise]; exact he) (by rw [rise]; rfl), rise]
  simp only [Option.map_some]
  rw [LinkPeriod.lckFall_within (Nat.le_refl _)]
  rfl

/-- The eighth bit of a byte (R157). -/
theorem State.takePins_last_bit (hs : s.held ≠ .ready []) (bytes : List Byte) {bits : List Bool}
    (h : bits.length = 7) (x : Bool) : (s.inPeriod bytes bits).takePins [.lckRise x, .lckFall]
      = .next (s.inPeriod (bytes ++ [byteOfBits (bits ++ [x])]) []) := by
  have rise := (State.lckRise_byte (s := s.inPeriod bytes bits) rfl h.ge x).trans
    (State.byteComplete_inPeriod hs bytes (byteOfBits (bits ++ [x])) bits)
  have he := State.takesEvents_inPeriod hp (bytes ++ [byteOfBits (bits ++ [x])]) []
  rw [State.takePins_bit (State.takesEvents_inPeriod hp bytes bits) rfl (by rw [rise]; exact he) (by rw [rise]), rise]
  simp only [Option.map_some]
  rw [LinkPeriod.lckFall_next (by simp [LinkPeriod.behind]), State.nextOut_outgoing]
  rfl

/-! ## Bits and bytes -/

theorem State.takePins_short (bytes : List Byte) {bits l : List Bool} (h : bits.length + l.length < 8) :
    (s.inPeriod bytes bits).takePins (bitPins l) = .next (s.inPeriod bytes (bits ++ l)) := by
  induction l generalizing bits with
  | nil => rw [List.append_nil]; rfl
  | cons x l ih =>
    rw [List.length_cons] at h
    rw [bitPins_cons, State.takePins_append (State.takePins_short_bit hp bytes (by omega) x),
      ih (by rw [List.length_append, List.length_singleton]; omega), List.append_assoc]
    rfl

theorem State.takePins_byte (hs : s.held ≠ .ready []) (bytes : List Byte) (b : Byte) :
    (s.inPeriod bytes []).takePins (bitPins (byteBits b)) = .next (s.inPeriod (bytes ++ [b]) []) := by
  have split : byteBits b = (byteBits b).take 7 ++ [b.getLsbD 0] := rfl
  have short : (s.inPeriod bytes []).takePins (bitPins ((byteBits b).take 7))
      = .next (s.inPeriod bytes ((byteBits b).take 7)) :=
    State.takePins_short hp bytes (Nat.lt_succ_self 7)
  rw [split, bitPins_append, State.takePins_append short]
  refine (State.takePins_last_bit hp hs bytes rfl (b.getLsbD 0)).trans ?_
  rw [← split, byteOfBits_byteBits]

theorem State.takePins_bytes (hs : s.held ≠ .ready []) (done bytes : List Byte) :
    (s.inPeriod done []).takePins (bitPins (bytes.flatMap byteBits)) = .next (s.inPeriod (done ++ bytes) []) := by
  induction bytes generalizing done with
  | nil => rw [List.append_nil]; rfl
  | cons b bytes ih =>
    rw [List.flatMap_cons, bitPins_append, State.takePins_append (State.takePins_byte hp hs done b), ih,
      List.append_assoc]
    rfl

/-! ## The end of a period -/

theorem runPeriod_read (rest : List Byte) : runPeriod (0xFF :: rest) s = .next (s.received (0xFF :: rest)) := by
  rw [runPeriod, decodePeriod_read]
  exact State.whenTakingPeriods_of hp (State.readPeriod (rest.length + 1) none)

/-- LCS_N that rises ends the period as its complete bytes say; the bits behind them are ignored (R157, R158, R161,
R163). -/
theorem State.takePin_lcsRise_inPeriod (hn : s.period = none) (bytes : List Byte) (tail : List Bool) :
    (s.inPeriod bytes tail).takePin .lcsRise = runPeriod bytes s := by
  have high := (State.takesPeriods_iff.1 hp).2
  have idle : { s.received bytes with lcsLow := false, period := none } = s.received bytes := by
    rw [s.received_frame, ← high, ← hn]
    rfl
  have ends : (s.inPeriod bytes tail).takePin .lcsRise = State.periodEnds { s.received bytes with
      lcsLow := false, period := some (.behind bytes (s.outgoing bytes) tail) } :=
    State.takePin_lcsRise (u := s.inPeriod bytes tail) (State.takesEvents_inPeriod hp bytes tail) rfl
  rw [ends]
  match bytes with
  | [] =>
    refine (State.periodEnds_quiet rfl (.inl rfl)).trans ?_
    exact congrArg _ idle
  | b :: rest =>
    by_cases hb : b = 0xFF
    · subst hb
      refine (State.periodEnds_quiet rfl (.inr rfl)).trans ?_
      exact (congrArg _ idle).trans (runPeriod_read hp rest).symm
    · refine (State.periodEnds_request rfl (List.cons_ne_nil b rest) (LinkPeriod.isRead_request rfl hb)).trans ?_
      refine (congrArg _ idle).trans ?_
      rw [s.received_frame]
      exact (runPeriod_request hp hb).1 _

/-! ## The levels of LDO -/

theorem State.ldoPin_inPeriod (bytes : List Byte) (bits : List Bool) :
    (s.inPeriod bytes bits).ldoPin = some ((s.outgoing bytes).1.getLsbD (7 - bits.length)) := by
  have powered := (State.takesEvents_iff.1 (State.takesEvents_inPeriod hp bytes bits)).1
  rw [State.ldoPin, powered]
  rfl

/-- At each rising edge of LCK the host samples the next bit of the outgoing byte (R157). -/
theorem State.ldoSamples_bits (bytes : List Byte) {bits l : List Bool} (h : bits.length + l.length ≤ 8) :
    State.ldoSamples (bitPins l) (s.inPeriod bytes bits)
      = (List.range' bits.length l.length).map fun k => some ((s.outgoing bytes).1.getLsbD (7 - k)) := by
  induction l generalizing bits with
  | nil => rfl
  | cons x l ih =>
    rw [List.length_cons] at h ⊢
    have sample : State.ldoSamples [.lckRise x, .lckFall] (s.inPeriod bytes bits)
        = [some ((s.outgoing bytes).1.getLsbD (7 - bits.length))] := by
      rw [State.ldoSamples_bit, State.ldoPin_inPeriod hp]
    rcases l with _ | ⟨y, l⟩
    · exact sample
    · rw [List.length_cons] at h
      have more := ih (bits := bits ++ [x]) (by simp; omega)
      rw [List.length_append, List.length_singleton] at more
      rw [bitPins_cons, State.ldoSamples_append (State.takePins_short_bit hp bytes (by omega) x), sample, more,
        List.range'_succ]
      rfl

/-- Over a whole byte it samples the outgoing byte, most significant bit first (R157). -/
theorem State.ldoSamples_byte (bytes : List Byte) (b : Byte) :
    State.ldoSamples (bitPins (byteBits b)) (s.inPeriod bytes []) = (byteBits (s.outgoing bytes).1).map some :=
  State.ldoSamples_bits hp bytes (Nat.le_refl 8)

/-- Over a period it samples the bytes sent. -/
theorem State.ldoSamples_bytes (hs : s.held ≠ .ready []) (done bytes : List Byte) :
    (s.sentIn done).flatMap (fun b => (byteBits b).map some)
        ++ State.ldoSamples (bitPins (bytes.flatMap byteBits)) (s.inPeriod done [])
      = (s.sentIn (done ++ bytes)).flatMap fun b => (byteBits b).map some := by
  induction bytes generalizing done with
  | nil => rw [List.append_nil]; exact List.append_nil _
  | cons b bytes ih =>
    have later := ih (done ++ [b])
    rw [s.sentIn_concat, List.flatMap_append, List.flatMap_singleton, List.append_assoc, List.append_assoc] at later
    rw [List.flatMap_cons, bitPins_append, State.ldoSamples_append (State.takePins_byte hp hs done b),
      State.ldoSamples_byte hp]
    exact later

/-- What a period with a complete byte comes to has sent on LDO the bytes that its edges sent (R158, R159, R166). -/
theorem runPeriod_ldo {bytes : List Byte} (hb : bytes ≠ []) :
    ∃ t, runPeriod bytes s = .next t ∧ t.ldo = s.sentIn bytes := by
  match bytes, hb with
  | b :: rest, _ =>
    by_cases h : b = 0xFF
    · subst h
      exact ⟨_, runPeriod_read hp rest, rfl⟩
    · rw [s.sentIn_request h]
      exact (runPeriod_request hp h).2

end InPeriod

/-! ## Whole periods -/

theorem State.takePins_periodPins {s : State} (hp : s.takesPeriods = true) (hn : s.period = none)
    (hs : s.held ≠ .ready []) (bytes : List Byte) {tail : List Bool} (ht : tail.length < 8) :
    s.takePins (periodPins bytes tail) = runPeriod bytes s := by
  have begins : s.takePins [.lcsFall] = .next (s.inPeriod [] []) := by
    rw [State.takePins, State.takePin_lcsFall hp]
    rfl
  have whole : periodPins bytes tail
      = [.lcsFall] ++ (bitPins (bytes.flatMap byteBits) ++ (bitPins tail ++ [.lcsRise])) := by
    simp [periodPins]
  rw [whole, State.takePins_append begins, State.takePins_append (State.takePins_bytes hp hs [] bytes),
    List.nil_append, State.takePins_append (State.takePins_short hp bytes (by simpa using ht)), List.nil_append,
    State.takePins, State.takePin_lcsRise_inPeriod hp hn]
  cases runPeriod bytes s <;> rfl

theorem State.ldoSamples_periodPins {s : State} (hp : s.takesPeriods = true) (hs : s.held ≠ .ready [])
    (bytes : List Byte) :
    s.ldoSamples (periodPins bytes []) = (s.sentIn bytes).flatMap fun b => (byteBits b).map some := by
  have whole : periodPins bytes [] = .lcsFall :: (bitPins (bytes.flatMap byteBits) ++ [.lcsRise]) := by
    simp [periodPins]
  rw [whole, State.ldoSamples_cons (State.takePin_lcsFall hp)]
  refine (State.ldoSamples_append (State.takePins_bytes hp hs [] bytes) [.lcsRise]).trans ?_
  rw [State.ldoSamples_lcsRise, List.append_nil]
  exact State.ldoSamples_bytes hp hs [] bytes

/-- Settles O60. -/
theorem pinsCarryPeriods : Obligations.PinsCarryPeriods := by
  refine ⟨fun s => ⟨fun h => ?_, fun h => ⟨?_, fun ldi => ?_⟩, fun hp => ⟨_, State.takePin_lcsFall hp, ?_, rfl, rfl⟩⟩,
    fun b => ⟨byteOfBits_byteBits b, rfl⟩, fun s bytes tail hp hn hs ht => ⟨State.takePins_periodPins hp hn hs bytes ht,
      fun hb => hb ▸ rfl, fun hb htail => ?_⟩⟩
  · rcases h with h | h <;> simp [State.ldoPin, h]
  · simp [State.takePin, h]
  · simp [State.takePin, h]
  · have first : (0xFF : Byte).getLsbD 7 = true := by decide
    exact (State.ldoPin_inPeriod hp [] []).trans (congrArg some first)
  · obtain ⟨t, ran, sent⟩ := runPeriod_ldo hp hb
    exact ⟨t, ran, by rw [htail, State.ldoSamples_periodPins hp hs, sent]⟩

end Sys2Proof.Machine
end

section
/-! SUPPORT. What holds at the completion of power-on (R177, O5). -/

namespace Sys2Proof.Machine

/-- Every law holds at the completion of power-on, whatever the levels of HOLDBOOT, SYSRST_N and LCS_N are and
whatever waits outside (R174, R176, R172). -/
theorem State.sound_powerOn (holdboot sysrstLow lcsLow : Bool) (waiting : List Instr) (pins : List PinChange) :
    (State.powerOn holdboot sysrstLow lcsLow waiting pins).Sound := by
  have noRecords (t : Tag) : (State.powerOn holdboot sysrstLow lcsLow waiting pins).records[t] = [] := by
    simp [State.powerOn]
  have slotsFree (k : SlotIndex) : (State.powerOn holdboot sysrstLow lcsLow waiting pins).slots[k] = .free := by
    simp [State.powerOn]
  exact ⟨State.capacityLaw_powerOn _ _ _ _ _, State.gateLaw_powerOn _ _ _ _ _, List.nodup_nil,
    State.selectorLaw_of_no_waits rfl, State.stallLaw_of_empty noRecords rfl, State.offerLaw_powerOn _ _ _ _ _,
    State.slotLaw_iff.2 (State.slotsKept_of_empty noRecords slotsFree nofun), State.recordLaw_of_empty noRecords,
    nofun, entryLaw_powerOn, State.assertionLaw_iff.2 fun _ => State.quiet_powerOn _ _ _ _ _,
    State.linkLaw_iff.2 (State.linkKept_of_none rfl nofun rfl)⟩

/-- With CLK running power-on completes, and of the earlier state only the level of LCS_N and what waits outside
remain (R172, R177). -/
theorem exec_powerOn_of_clkRunning {s : State} (hclk : s.clkRunning = true) (holdboot sysrstLow : Bool) :
    exec (.powerOn holdboot sysrstLow) s = .next (.powerOn holdboot sysrstLow s.lcsLow s.pending s.pins) :=
  congrArg Host.Outcome.next (if_pos hclk)

/-- Settles O5: the laws hold after every power-on, and log entry 1 chooses the levels of this one. -/
theorem resetMeetsTheLaws : Obligations.ResetMeetsTheLaws :=
  ⟨State.sound_powerOn _ _ _ _ _, rfl, fun s hwait hpins hclk hlcs => by
    rw [exec_powerOn_of_clkRunning hclk, hwait, hpins, hlcs, State.reset]⟩

end Sys2Proof.Machine
end

section
/-! SUPPORT. The exact sizes and the bytes of the laid-out records (10.3 to 10.6, R180, R182, O46). -/

namespace Sys2Proof.Machine

/-! ## Sizes -/

theorem Definition.bytes_length (d : Definition) :
    d.bytes.length = 16 + (if d.qualifier = none then 0 else 16) + (if d.skip = none then 0 else 2)
      + (if d.arms = none then 0 else 1) := by
  cases hq : d.qualifier <;> cases hs : d.skip <;> cases ha : d.arms <;> simp [Definition.bytes, hq, hs, ha]

theorem latchBytes_length (o : Option Latch) :
    (latchBytes o).length = 1 + match o with
      | none => 0
      | some l => if l.matched = none then 10 else 19 := by
  cases o with
  | none => rfl
  | some l => cases h : l.matched <;> simp [latchBytes, h]

theorem WatchEntry.bytes_length (i : WatchIndex) (e : WatchEntry) :
    (e.bytes i).length = 24 + (if e.definition.qualifier = none then 0 else 16)
      + (if e.definition.skip = none then 0 else 2) + (if e.definition.arms = none then 0 else 1)
      + match e.latch with
        | none => 0
        | some l => if l.matched = none then 10 else 19 := by
  have parts : (e.bytes i).length = 7 + e.definition.bytes.length + (latchBytes e.latch).length := by
    simp [WatchEntry.bytes]
    omega
  rw [parts, Definition.bytes_length, latchBytes_length]
  omega

theorem Firing.bytes_length (f : Firing) : f.bytes.length = if f.matched = none then 5 else 14 := by
  cases h : f.matched <;> simp [Firing.bytes, h]

theorem Event.body_length (e : Event) : e.body.length = match e with
    | .watch _ f => if f.matched = none then 15 else 24
    | .watchRead _ f => if f.matched = none then 15 else 24
    | .holdExpired _ _ _ _ => 4
    | .noAnswer _ => 10
    | .malformed _ => 10
    | .targetReset => 0
    | .probeDone _ => 1 := by
  cases e with
  | watch t f | watchRead t f =>
    simp only [Event.body, List.length_append, Transaction.bytes_length, Firing.bytes_length]
    split <;> rfl
  | noAnswer t | malformed t => exact t.bytes_length
  | holdExpired | targetReset | probeDone => rfl

theorem Delivered.bytes_length (d : Delivered) : d.bytes.length = 5 + d.event.body.length := by
  simp [Delivered.bytes]
  omega

/-! ## Sets of watch indices -/

/-- The set is gathered from the left, so the induction speaks of any set `w` gathered before. -/
theorem getLsbD_foldl_twoPow (l : List WatchIndex) (w : BitVec 16) (i : WatchIndex) :
    (l.foldl (fun acc k => acc ||| BitVec.twoPow 16 k.val) w).getLsbD i.val = true
      ↔ w.getLsbD i.val = true ∨ i ∈ l := by
  induction l generalizing w with
  | nil => simp
  | cons k ks ih =>
    have own : k.val = i.val ↔ i = k := by rw [Fin.val_inj, eq_comm]
    rw [List.foldl_cons, ih, BitVec.getLsbD_or, BitVec.getLsbD_twoPow]
    simp [own, or_assoc]

/-- Bit `i` of the number stands for watch index `i` (R180). -/
theorem watchSet_getLsbD (l : List WatchIndex) (i : WatchIndex) :
    (watchSet l).getLsbD i.val = true ↔ i ∈ l :=
  (getLsbD_foldl_twoPow l 0 i).trans (by simp)

/-! ## Gate contexts and counts (10.5) -/

theorem Gate.bytes_eq (tag : Tag) (g : Gate) :
    g.bytes tag = [byteOf tag.val, g.state.code,
        match g.state with
        | .closed cause => cause.code
        | _ => 0xFF]
      ++ u16Bytes g.state.steps ++ u16Bytes g.limit ++ [g.policy.code, boolByte g.timer.isSome]
      ++ u16Bytes (match g.timer with
        | some micros => unitsLeft micros
        | none => 0) := by
  have absent : [0, 0] = u16Bytes 0 := by decide
  obtain ⟨state, limit, policy, timer⟩ := g
  cases timer with
  | none => exact congrArg (_ ++ ·) absent
  | some micros => rfl

theorem TransitRecord.isGated_eq_code (r : TransitRecord) : r.isGated = decide (r.phase.code = 0x00) := by
  unfold TransitRecord.isGated; cases r.phase <;> rfl

theorem TransitRecord.isReady_eq_code (r : TransitRecord) : r.isReady = decide (r.phase.code = 0x01) := by
  unfold TransitRecord.isReady; cases r.phase <;> rfl

theorem TransitRecord.isAtMemory_eq_code (r : TransitRecord) : r.isAtMemory = decide (r.phase.code = 0x02) := by
  unfold TransitRecord.isAtMemory; cases r.phase <;> rfl

theorem TransitRecord.isAnswered_eq_code (r : TransitRecord) : r.isAnswered = decide (r.phase.code = 0x03) := by
  unfold TransitRecord.isAnswered; cases r.phase <;> rfl

theorem tagReadBytes_eq (tag : Tag) (g : Gate) (l : List TransitRecord) :
    tagReadBytes tag g l = g.bytes tag ++ ([0x00, 0x01, 0x02, 0x03].map fun c : Byte =>
      byteOf (l.filter fun r => r.phase.code = c).length) := by
  simp only [tagReadBytes, countByte, TransitRecord.isGated_eq_code, TransitRecord.isReady_eq_code,
    TransitRecord.isAtMemory_eq_code, TransitRecord.isAnswered_eq_code, List.map_cons, List.map_nil]

theorem heldListBytes_eq (tag : Tag) (g : Gate) (l : List TransitRecord) :
    heldListBytes tag g l = g.bytes tag ++ [byteOf l.length] ++ l.flatMap TransitRecord.bytes :=
  (List.append_assoc _ [_] _).symm

/-! ## Watch entries (10.4) and events (10.6) -/

theorem latchBytes_eq (o : Option Latch) :
    latchBytes o = match o with
      | none => [0x00]
      | some l => (if l.matched = none then [0x01] else [0x02]) ++ u16Bytes l.transaction.arrival
        ++ [byteOf l.transaction.tag.val, privilegeCode l.transaction.privilege, accessCode l.transaction.access]
        ++ u32Bytes l.transaction.address ++ [byteOf l.transaction.beats.toNat]
        ++ (match l.matched with
          | none => []
          | some m => [byteOf m.index] ++ beatBytes m.data) := by
  cases o with
  | none => rfl
  | some l => cases h : l.matched <;> simp [latchBytes, h]

theorem WatchEntry.bytes_eq (i : WatchIndex) (e : WatchEntry) :
    e.bytes i = [byteOf i.val, boolByte e.undefined, e.state.code]
      ++ u32Bytes e.definition.base ++ u32Bytes e.definition.limit
      ++ [e.definition.access.code, e.definition.tags, e.definition.privilege.code, e.definition.action.code,
        e.definition.report.code, if e.definition.startLive then EntryState.live.code else EntryState.dormant.code,
        boolByte e.definition.once,
        byteOf ((if e.definition.qualifier.isSome then 1 else 0) + (if e.definition.skip.isSome then 2 else 0)
          + (if e.definition.arms.isSome then 4 else 0))]
      ++ (match e.definition.qualifier with
        | some q => beatBytes q.value ++ beatBytes q.mask
        | none => [])
      ++ (match e.definition.skip with
        | some n => u16Bytes n
        | none => [])
      ++ (match e.definition.arms with
        | some a => [byteOf a.val]
        | none => [])
      ++ u16Bytes e.skips ++ u16Bytes e.fires ++ latchBytes e.latch := by
  simp only [WatchEntry.bytes, Definition.bytes, List.cons_append, List.nil_append, List.append_assoc]
  rfl

theorem Firing.bytes_eq (f : Firing) :
    f.bytes = u16Bytes (watchSet f.fired) ++ [f.action.code, boolByte f.gateClosed]
      ++ (match f.matched with
        | none => [0x00]
        | some m => [0x01, byteOf m.index] ++ beatBytes m.data) := by
  cases h : f.matched <;> simp [Firing.bytes, h]

theorem Event.body_watch (x : Transaction) (f : Firing) :
    (Event.watch x f).body = x.bytes ++ u16Bytes (watchSet f.fired) ++ [f.action.code, boolByte f.gateClosed]
      ++ (match f.matched with
        | none => [0x00]
        | some m => [0x01, byteOf m.index] ++ beatBytes m.data) := by
  simp only [Event.body, Firing.bytes_eq, List.append_assoc]

theorem Delivered.bytes_getElem?_four (d : Delivered) :
    d.bytes[4]? = some (byteOf d.event.body.length) := rfl

theorem Delivered.bytes_eq (d : Delivered) :
    d.bytes = u16Bytes d.sequence
      ++ [match d.event with
          | .watch _ _ => 0x00
          | .watchRead _ _ => 0x01
          | .holdExpired _ _ _ _ => 0x02
          | .noAnswer _ => 0x03
          | .malformed _ => 0x04
          | .targetReset => 0x05
          | .probeDone _ => 0x06,
        d.lostBefore, byteOf d.event.body.length] ++ d.event.body := by
  obtain ⟨sequence, lostBefore, event⟩ := d
  cases event <;> rfl

/-- Settles O46: sizes and codes first, then the bytes of each record. -/
theorem recordLayoutSizes : Obligations.RecordLayoutSizes :=
  ⟨fun tag g l => ⟨tagReadBytes_length tag g l, heldListBytes_length tag g l⟩, WatchEntry.bytes_length,
    fun d => ⟨d.bytes_length, d.bytes_getElem?_four, d.event.body_length⟩,
    rfl, rfl, rfl, rfl, rfl, rfl, rfl, rfl, fun _ _ => rfl, rfl, fun _ _ => rfl, rfl, rfl, rfl,
    fun tag g l => ⟨Gate.bytes_eq tag g, tagReadBytes_eq tag g l, heldListBytes_eq tag g l⟩,
    fun r => ⟨watchSet r.fired, watchSet_getLsbD r.fired, rfl⟩,
    fun i e => (WatchEntry.bytes_eq i e).trans (congrArg _ (latchBytes_eq e.latch)),
    Delivered.bytes_eq,
    fun x f => ⟨watchSet f.fired, watchSet_getLsbD f.fired, rfl, Event.body_watch x f⟩,
    fun _ => ⟨rfl, rfl⟩, fun _ _ _ _ => rfl, fun _ => rfl, rfl⟩

end Sys2Proof.Machine
end
